-- ==== Sys2Proof/Word.lean ====
section
/-! DEFINITION. The word types of the block (spec/00_scope.md R10, R12): a transported byte is 8 bits wide, a host
command word and a block register are 32 bits wide. -/

namespace Sys2Proof

/-- A transported byte, a command byte, a register of the peer (R10: 8 bits). -/
abbrev Byte := BitVec 8

/-- A host command word, a block register, the value of a response (R10, R73, R220: 32 bits). -/
abbrev Word := BitVec 32

/-- `zext_32` of R12 on a byte. -/
def zext32 (b : Byte) : Word := b.zeroExtend 32

end Sys2Proof
end

