-- ==== Sys2Proof/Config.lean ====
section
/-! DEFINITION. What is fixed for one machine, and the free values.

The parameters of spec/00_scope.md R10. `CE_ACTIVE` and `PIN_FAULTS` are OPEN there ("a named argument"); the pin
identifiers are "opaque, given at construction, never rebound" (R11). They are held in State (field `params`), set at
construction and changed by no step, so that every statement about a state holds for every value of them.
`PEER` and the outcome of each pin operation are draws: free values (R9, R105). -/

namespace Sys2Proof

/-- A pin identifier (R10: opaque). -/
abbrev PinId := Nat

/-- The parameters a model takes (R10). -/
structure Params where
  /-- `CE_ACTIVE`: the line level that asserts chip-select; OPEN, default 1 (R10, R25). -/
  ceActive : Bool
  /-- `PIN_FAULTS`: whether the environment may fail a pin operation; OPEN, default true (R10, R105). -/
  pinFaults : Bool
  /-- `PIN_CLK` (R10, R11). -/
  pinClk : PinId
  /-- `PIN_DAT` (R10, R11). -/
  pinDat : PinId
  /-- `PIN_CE` (R10, R11). -/
  pinCe : PinId
  deriving DecidableEq, Repr

namespace Config

/-- FREE VALUE (notes/assumptions/3.md): the peer's answer to the n-th sample of a run (R9, R103: "a free draw"). -/
opaque peerAnswer : Nat → Bool

/-- FREE VALUE (notes/assumptions/4.md): whether the n-th pin operation of a run fails (R105: "a draw the model takes
at every event"). -/
opaque pinFail : Nat → Bool

/-- FREE VALUES (notes/assumptions/5.md): the pin identifiers given at construction (R10: "opaque"). -/
opaque pinClk : PinId
opaque pinDat : PinId
opaque pinCe : PinId

/-- The spec's defaults of the OPEN parameters (R10: `CE_ACTIVE` default 1, `PIN_FAULTS` default true). -/
def defaultParams : Params :=
  { ceActive := true, pinFaults := true, pinClk := pinClk, pinDat := pinDat, pinCe := pinCe }

/-- `CENTURY`: the prefix of the host's year read, the string "20" (R10, R188). -/
def century : List Char := ['2', '0']

end Config

end Sys2Proof
end

