-- ==== Sys2Proof/Syntax.lean ====
section
/-! DEFINITION. The syntax: one constructor per row of spec/opcode_table.json (spec/30_encoding.md R71, R76): the ten host
commands, and the eighteen command bytes under the names of R84. -/

namespace Sys2Proof

/-- The instructions. The first ten are the host commands of R76, with their operands (R75). The other eighteen are the
command bytes of R71: the byte the block sends first in a transaction (notes/assumptions/1.md). -/
inductive Instr where
  /-- R111, format N, OPC 0x01. -/
  | cson
  /-- R113, format N, OPC 0x02. -/
  | csoff
  /-- R117, format Y, OPC 0x03: the byte to send. -/
  | wrbyte (d : Byte)
  /-- R120, format N, OPC 0x04. -/
  | rdbyte
  /-- R130, format RW, OPC 0x10: the command byte and the data byte. -/
  | wrreg (a d : Byte)
  /-- R136, format RR, OPC 0x11: the command byte. -/
  | rdreg (a : Byte)
  /-- R141, format N, OPC 0x12. -/
  | start
  /-- R150, format I, OPC 0x20: the 16 bits read as a two's-complement integer (R75). -/
  | bcdenc (v : BitVec 16)
  /-- R153, format Y, OPC 0x21. -/
  | bcddec (d : Byte)
  /-- R170, format C, OPC 0x30: the CSR number. -/
  | csrrd (n : Byte)
  /-- Seconds, write: 0x80 (R71). -/
  | secW
  /-- Seconds, read: 0x81 (R71). -/
  | secR
  /-- Minutes, write: 0x82 (R71). -/
  | minW
  /-- Minutes, read: 0x83 (R71). -/
  | minR
  /-- Hours, write: 0x84 (R71). -/
  | hrW
  /-- Hours, read: 0x85 (R71). -/
  | hrR
  /-- Day of month, write: 0x86 (R71). -/
  | dateW
  /-- Day of month, read: 0x87 (R71). -/
  | dateR
  /-- Month, write: 0x88 (R71). -/
  | monW
  /-- Month, read: 0x89 (R71). -/
  | monR
  /-- Day of week, write: 0x8A (R71). -/
  | dowW
  /-- Day of week, read: 0x8B (R71). -/
  | dowR
  /-- Year, write: 0x8C (R71). -/
  | yrW
  /-- Year, read: 0x8D (R71). -/
  | yrR
  /-- Write-protect, write: 0x8E (R71). -/
  | wpW
  /-- Trickle charger, write: 0x90 (R71). -/
  | tcW
  /-- RAM base, write: 0xC0 (R71). -/
  | ramW
  /-- Burst mode: 0xBE (R71). -/
  | burst
  deriving DecidableEq, Repr

/-- One thing handed to the block: a host command word (R8, R73), or a command byte by itself
(the model's own form, notes/assumptions/1.md). -/
inductive Issue where
  | word (w : Word)
  | commandByte (b : Byte)
  deriving DecidableEq, Repr

/-- The six formats of a host command word (R74). -/
inductive Format where
  | n | y | rw | rr | i | c
  deriving DecidableEq, Repr

/-- Why a decode is rejected: R78 (a), R78 (b), and a command byte that is no row of the table (R54, R71). -/
inductive DecodeError where
  | unknownOpcode (opc : Byte)
  | reservedBitSet (w : Word)
  | reservedCommandByte (b : Byte)
  deriving DecidableEq, Repr

/-- Field `C` of a command byte (R70, R52): the clock/calendar registers or the RAM. -/
inductive PeerClass where
  | clock | ram
  deriving DecidableEq, Repr

/-- Field `D` of a command byte (R70, R52). -/
inductive Direction where
  | write | read
  deriving DecidableEq, Repr

end Sys2Proof
end

