-- ==== Sys2Proof/WellFormed.lean ====
section
/-! DEFINITION. Well-formedness: the bits a format requires to be zero (spec/30_encoding.md R74, R78), the layout of a
command byte (R70), and the one operand value the spec checks as an encoding, the CSR number (R34, R171, R79). -/

namespace Sys2Proof

/-- The bits a format marks `0` (R74). -/
def Format.reservedMask : Format → Word
  | .n  => 0x00FFFFFF#32
  | .y  => 0x00FFFF00#32
  | .rw => 0x0000FF00#32
  | .rr => 0x0000FFFF#32
  | .i  => 0x00FF0000#32
  | .c  => 0x0000FFFF#32

/-- No bit that the format marks `0` is 1 (R74, R78 (b)). -/
def Format.wordOk (f : Format) (w : Word) : Bool := w &&& f.reservedMask == 0#32

/-- The marker bit of a command byte is always 1 (R70). -/
def commandByteOk (b : Byte) : Bool := b.getLsbD 7

/-- A well-formed instruction. The operands' types hold exactly the values the fields hold; the only operand value that
makes a command illegal is a CSR number that is not implemented (R34, R171; R79 on the others). -/
def Instr.wellFormed : Instr → Bool
  | .csrrd n => n.toNat ≤ 0x04
  | .cson | .csoff | .wrbyte _ | .rdbyte | .wrreg _ _ | .rdreg _ | .start | .bcdenc _ | .bcddec _ => true
  | .secW | .secR | .minW | .minR | .hrW | .hrR | .dateW | .dateR | .monW | .monR | .dowW | .dowR => true
  | .yrW | .yrR | .wpW | .tcW | .ramW | .burst => true

end Sys2Proof
end

