-- ==== Sys2Proof/Decode.lean ====
section
/-! DEFINITION. Decoding (spec/30_encoding.md R73 to R79, R86), total on every word and every byte and rejecting by
name; and after it the encoder, written from the same tables (R70, R71, R74, R76). -/

namespace Sys2Proof

/-- `OPC = HCW[31:24]` (R73). -/
def opcField (w : Word) : Byte := w.extractLsb' 24 8

/-- `A = HCW[23:16]` (R73). -/
def aField (w : Word) : Byte := w.extractLsb' 16 8

/-- `B = HCW[15:0]` (R73). -/
def bField (w : Word) : BitVec 16 := w.extractLsb' 0 16

/-- `data = B[7:0]` (R75). -/
def dataField (w : Word) : Byte := (bField w).extractLsb' 0 8

/-- The command `i` in format `f`: refused when a bit the format marks `0` is 1 (R78 (b)). -/
def inFormat (f : Format) (w : Word) (i : Instr) : Except DecodeError Instr :=
  if f.wordOk w then .ok i else .error (.reservedBitSet w)

/-- The decoder of host command words: the opcode map of R76 with the formats of R74. -/
def decodeWord (w : Word) : Except DecodeError Instr :=
  match (opcField w).toNat with
  | 0x01 => inFormat .n w .cson
  | 0x02 => inFormat .n w .csoff
  | 0x03 => inFormat .y w (.wrbyte (dataField w))
  | 0x04 => inFormat .n w .rdbyte
  | 0x10 => inFormat .rw w (.wrreg (aField w) (dataField w))
  | 0x11 => inFormat .rr w (.rdreg (aField w))
  | 0x12 => inFormat .n w .start
  | 0x20 => inFormat .i w (.bcdenc (bField w))
  | 0x21 => inFormat .y w (.bcddec (dataField w))
  | 0x30 => inFormat .c w (.csrrd (aField w))
  | _ => .error (.unknownOpcode (opcField w))

/-- The decoder of command bytes: the constants of R71 under the names of R84. -/
def decodeCommandByte (b : Byte) : Except DecodeError Instr :=
  match b.toNat with
  | 0x80 => .ok .secW
  | 0x81 => .ok .secR
  | 0x82 => .ok .minW
  | 0x83 => .ok .minR
  | 0x84 => .ok .hrW
  | 0x85 => .ok .hrR
  | 0x86 => .ok .dateW
  | 0x87 => .ok .dateR
  | 0x88 => .ok .monW
  | 0x89 => .ok .monR
  | 0x8A => .ok .dowW
  | 0x8B => .ok .dowR
  | 0x8C => .ok .yrW
  | 0x8D => .ok .yrR
  | 0x8E => .ok .wpW
  | 0x90 => .ok .tcW
  | 0xC0 => .ok .ramW
  | 0xBE => .ok .burst
  | _ => .error (.reservedCommandByte b)

/-- The decoder: a word or a command byte (R86). -/
def decode : Issue → Except DecodeError Instr
  | .word w => decodeWord w
  | .commandByte b => decodeCommandByte b

/-- The instruction the decoder reads from an instruction of `nbits` bits whose bits are `w`, as spec/opcode_table.json
numbers them: 32 bits are a host command word, 8 bits a command byte. -/
def decodeTableWord (nbits w : Nat) : Option Instr :=
  match decode (if nbits = 8 then .commandByte (BitVec.ofNat 8 w) else .word (BitVec.ofNat 32 w)) with
  | .ok i => some i
  | .error _ => none

/-- A host command word from its fields (R73). -/
def hcw (opc a : Byte) (b : BitVec 16) : Word := opc ++ a ++ b

/-- The data operand of formats Y and RW in the low byte of `B`, zeros above it (R74). -/
def dataOperand (d : Byte) : BitVec 16 := 0x00#8 ++ d

/-- The host command word `WRBYTE d`, `0x030000dd` (R117). -/
def wrbyteWord (d : Byte) : Word := hcw 0x03#8 0x00#8 (dataOperand d)

/-- The byte of a command-byte row (R71), and `none` for a host command. -/
def commandByteOf : Instr → Option Byte
  | .secW => some 0x80#8
  | .secR => some 0x81#8
  | .minW => some 0x82#8
  | .minR => some 0x83#8
  | .hrW => some 0x84#8
  | .hrR => some 0x85#8
  | .dateW => some 0x86#8
  | .dateR => some 0x87#8
  | .monW => some 0x88#8
  | .monR => some 0x89#8
  | .dowW => some 0x8A#8
  | .dowR => some 0x8B#8
  | .yrW => some 0x8C#8
  | .yrR => some 0x8D#8
  | .wpW => some 0x8E#8
  | .tcW => some 0x90#8
  | .ramW => some 0xC0#8
  | .burst => some 0xBE#8
  | .cson | .csoff | .wrbyte _ | .rdbyte | .wrreg _ _ | .rdreg _ | .start | .bcdenc _ | .bcddec _ | .csrrd _ => none

/-- The host command word of an instruction (R74, R76, R77), the `HCW` that its errors record (R226). For a
command-byte row it is the word `WRBYTE b` of its byte, the host command that sends that byte alone
(R82, R85; notes/assumptions/1.md). -/
def hcwOf : Instr → Word
  | .cson => hcw 0x01#8 0x00#8 0x0000#16
  | .csoff => hcw 0x02#8 0x00#8 0x0000#16
  | .wrbyte d => wrbyteWord d
  | .rdbyte => hcw 0x04#8 0x00#8 0x0000#16
  | .wrreg a d => hcw 0x10#8 a (dataOperand d)
  | .rdreg a => hcw 0x11#8 a 0x0000#16
  | .start => hcw 0x12#8 0x00#8 0x0000#16
  | .bcdenc v => hcw 0x20#8 0x00#8 v
  | .bcddec d => hcw 0x21#8 0x00#8 (dataOperand d)
  | .csrrd n => hcw 0x30#8 n 0x0000#16
  | .secW => wrbyteWord 0x80#8
  | .secR => wrbyteWord 0x81#8
  | .minW => wrbyteWord 0x82#8
  | .minR => wrbyteWord 0x83#8
  | .hrW => wrbyteWord 0x84#8
  | .hrR => wrbyteWord 0x85#8
  | .dateW => wrbyteWord 0x86#8
  | .dateR => wrbyteWord 0x87#8
  | .monW => wrbyteWord 0x88#8
  | .monR => wrbyteWord 0x89#8
  | .dowW => wrbyteWord 0x8A#8
  | .dowR => wrbyteWord 0x8B#8
  | .yrW => wrbyteWord 0x8C#8
  | .yrR => wrbyteWord 0x8D#8
  | .wpW => wrbyteWord 0x8E#8
  | .tcW => wrbyteWord 0x90#8
  | .ramW => wrbyteWord 0xC0#8
  | .burst => wrbyteWord 0xBE#8

/-- The encoder: what the block is handed for an instruction. -/
def encode (i : Instr) : Issue :=
  match commandByteOf i with
  | some b => .commandByte b
  | none => .word (hcwOf i)

/-- `C = b[6]`: 0 selects the clock/calendar registers and 1 the RAM (R52, R70). -/
def classOf (b : Byte) : PeerClass := if b.getLsbD 6 then .ram else .clock

/-- `S = b[5:1]`, the register index (R70). -/
def indexOf (b : Byte) : BitVec 5 := b.extractLsb' 1 5

/-- `D = b[0]`: 0 is a write and 1 a read (R52, R70). -/
def directionOf (b : Byte) : Direction := if b.getLsbD 0 then .read else .write

/-- The command byte of a class, an index and a direction: `1 C SSSSS D` (R70). -/
def commandByteFrom (c : PeerClass) (i : BitVec 5) (d : Direction) : Byte :=
  1#1 ++ BitVec.ofBool (c == .ram) ++ i ++ BitVec.ofBool (d == .read)

end Sys2Proof
end

