-- ==== Sys2Proof/Machine/State.lean ====
section
/-! DEFINITION. The state of the machine as plain data: the block's complete state (spec/10_state.md R21), the host's side
of the interface (R22, R220, R277, R278), the pin-event trace (R14), the parameters fixed at construction (R10, R11), and
the model's own draw fields; the outcomes of a command; and the state after reset (R39, R260). -/

namespace Sys2Proof.Machine

/-- The direction of the data pin, `IO_DIR` (R21, R26): `IN` = 0, `OUT` = 1. -/
inductive Dir where
  /-- the peer drives the data line -/
  | inp
  /-- the block drives the data line -/
  | out
  deriving DecidableEq, Repr

/-- The pin events (R14). -/
inductive Event where
  /-- `CE(a)`: chip-select asserted or deasserted -/
  | ce (a : Bool)
  /-- `CLK(l)`: the clock line driven to level `l` -/
  | clk (l : Bool)
  /-- `DIR(d)`: the data pin's direction set to `d` -/
  | dir (d : Dir)
  /-- `IO(l)`: the block drives level `l` onto the data line -/
  | io (l : Bool)
  /-- `SMP(b)`: the block samples the data line and gets bit `b` -/
  | smp (b : Bool)
  deriving DecidableEq, Repr

/-- The pins (R21, R24 to R27). -/
structure Pins where
  /-- `SCLK_LVL` (R24) -/
  sclkLvl : Bool
  /-- `CE_ASSERTED` (R25) -/
  ceAsserted : Bool
  /-- `IO_DIR` (R26) -/
  ioDir : Dir
  /-- `IO_OUT` (R27) -/
  ioOut : Bool
  deriving DecidableEq, Repr

/-- The window tracker (R21, R32, R37, R108). -/
structure Window where
  /-- `WIN_LEN` -/
  len : BitVec 2
  /-- `WIN_SEQ` -/
  seq : BitVec 3
  /-- `WIN_FIRST` -/
  first : Byte
  deriving DecidableEq, Repr

/-- The error flags and the first-error record (R21, R29, R33, R35). -/
structure Flags where
  /-- `E_ILL` -/
  eIll : Bool
  /-- `E_ARG` -/
  eArg : Bool
  /-- `E_REG` -/
  eReg : Bool
  /-- `E_WIN` -/
  eWin : Bool
  /-- `E_DIR` -/
  eDir : Bool
  /-- `E_FRAME` -/
  eFrame : Bool
  /-- `FEV` -/
  fev : Bool
  /-- `FATAL` -/
  fatal : Bool
  /-- `FIRSTERR` -/
  firstErr : Word
  deriving DecidableEq, Repr

/-- The errors a command can end with (R220). -/
inductive ErrorCode where
  | illegalCommand
  | invalidArgument
  | invalidRegister
  | windowClosed
  | windowOpen
  | direction
  | frameViolation
  | pinFault
  deriving DecidableEq, Repr

/-- The response of a command (R220): the 4-bit error code, 0 for success, and the 32-bit value. -/
structure Response where
  e : BitVec 4
  val : Word
  deriving DecidableEq, Repr

/-- The model's own field, not the spec's (notes/assumptions/3.md, 4.md): the draws of the environment that are written
down. Draw `n` is entry `n` of the list, and the free value of Config where the list does not reach. No step changes it. -/
structure Draws where
  /-- the peer's answers, in the order the samples are taken (R9) -/
  answers : List Bool
  /-- which pin operations fail, in the order they are attempted (R105) -/
  faults : List Bool
  deriving DecidableEq, Repr

end Sys2Proof.Machine

namespace Sys2Proof.Machine

/-- The state of the machine. -/
structure State where
  /-- the parameters bound at construction (R10, R11) -/
  params : Params
  /-- the pins (R24 to R27) -/
  pins : Pins
  /-- `RXBUF` (R21, R30) -/
  rxbuf : Byte
  /-- `RESULT` (R21, R31) -/
  result : Word
  /-- the window tracker (R37) -/
  win : Window
  /-- the flags and the first-error record (R35) -/
  flags : Flags
  /-- `HOST_PC`: the index of the next command the host will issue (R22) -/
  hostPc : Nat
  /-- what the host will issue next, the first at the head (R22, R278) -/
  pending : List Issue
  /-- the responses given so far, the oldest first (R220, R277) -/
  responses : List Response
  /-- the pin-event trace, the oldest first (R14, R277) -/
  trace : List Event
  /-- the written-down draws (the model's own) -/
  draws : Draws
  /-- how many pin operations have been attempted (the model's own counter of fault draws) -/
  opCount : Nat
  /-- how many samples the peer has been asked for (the model's own counter of answer draws) -/
  smpCount : Nat
  deriving DecidableEq, Repr

/-- What stops the machine. The spec gives the block no event that does: each error is reported in the response of its
command and the host carries on (R227, R233), and a pin fault leaves a block that still answers (R232). So there is no
constructor, no meaning raises one, and nothing safe or unsafe rests on it. -/
inductive Fault
  deriving DecidableEq, Repr

/-- Why a step is refused. -/
inductive Refusal where
  /-- An instruction without a meaning, raised by exec alone. Safe: nothing is claimed of it. No arm of exec raises it. -/
  | notModelled (mnemonic : String)
  /-- A lone command byte that is no row of the opcode table, raised by `rejectIssue` alone: it is "reserved for the block"
  (R54), and the spec gives the host no such interface (notes/assumptions/2.md). Safe: the machine stops. -/
  | reservedCommandByte (b : Byte)
  deriving DecidableEq, Repr

/-- How a micro-sequence or a command body ends (R15): it returns a value, or it raises an error; with the state the
events before that point left. -/
inductive Run (α : Type) where
  | done (a : α) (s : State)
  | raised (e : ErrorCode) (s : State)

/-- Reset is construction (R260, R278): the parameters are bound and every field takes its value of R39; no event. -/
def State.construct (p : Params) : State :=
  { params := p
    pins := { sclkLvl := false, ceAsserted := false, ioDir := .inp, ioOut := false }
    rxbuf := 0x00#8
    result := 0x00000000#32
    win := { len := 0#2, seq := 0#3, first := 0x00#8 }
    flags :=
      { eIll := false, eArg := false, eReg := false, eWin := false, eDir := false, eFrame := false
        fev := false, fatal := false, firstErr := 0x00000000#32 }
    hostPc := 0
    pending := []
    responses := []
    trace := []
    draws := { answers := [], faults := [] }
    opCount := 0
    smpCount := 0 }

/-- The state after reset, with the spec's defaults of the OPEN parameters (R10, R39, R260). -/
def State.reset : State := State.construct Config.defaultParams

end Sys2Proof.Machine
end

