-- ==== Sys2Proof/Machine/Operands.lean ====
section
/-! DEFINITION. Operand forms: the bits of a byte in the order they travel (spec/20_memory.md R56), operand assembly
(spec/30_encoding.md R75), the closed enumeration of command bytes (R81) and BCD values (spec/42_bcd.md R150, R153). -/

namespace Sys2Proof.Machine

/-- The bits of a byte, least-significant first, as they go on the data line (R56). -/
def bitsLsb (x : Byte) : List Bool :=
  [x.getLsbD 0, x.getLsbD 1, x.getLsbD 2, x.getLsbD 3, x.getLsbD 4, x.getLsbD 5, x.getLsbD 6, x.getLsbD 7]

/-- `acc | (b << i)`: one received bit at its position (R56, R120). -/
def orBit (acc : Byte) (i : Nat) (b : Bool) : Byte := acc ||| ((BitVec.ofBool b).zeroExtend 8 <<< i)

/-- `sint16(B)`: the operand of `BCDENC` as an integer -32768..32767 (R12, R75). -/
def sint16 (v : BitVec 16) : Int := v.toInt

/-- `WSET`: the command bytes `WRREG` accepts (R81). -/
def wset : List Byte :=
  [0x80#8, 0x82#8, 0x84#8, 0x86#8, 0x88#8, 0x8A#8, 0x8C#8, 0x8E#8, 0x90#8, 0xC0#8]

/-- `RSET`: the command bytes `RDREG` accepts (R81). -/
def rset : List Byte := [0x81#8, 0x83#8, 0x85#8, 0x87#8, 0x89#8, 0x8B#8, 0x8D#8]

/-- `BURST`: sent only by `START` (R81). -/
def burstByte : Byte := 0xBE#8

/-- The range check of `BCDENC` (R150, R152): only 0..99 is valid. -/
def bcdInRange (v : Int) : Bool := decide (0 ≤ v ∧ v ≤ 99)

/-- The packed BCD byte of an integer 0..99: `((v / 10) << 4) | (v % 10)` (R58, R150). -/
def bcdPack (v : Int) : Byte := (BitVec.ofInt 8 (v / 10) <<< 4) ||| BitVec.ofInt 8 (v % 10)

/-- `bcd_value(x)`: `tens * 10 + units`, no nibble checked (R153, R154). -/
def bcdValue (x : Byte) : Byte :=
  let tens := (x >>> 4) &&& 0x0F#8
  let units := x &&& 0x0F#8
  tens * 10#8 + units

end Sys2Proof.Machine
end

