-- ==== Sys2Proof/Machine/Flags.lean ====
section
/-! DEFINITION. The flags: the numbers of the error codes (spec/60_exceptions.md R220), what an error records (R226), and
the words `CSRRD` reads them in (spec/10_state.md R29 to R33). The block has no arithmetic flags (R35). -/

namespace Sys2Proof.Machine

/-- The 4-bit code of an error (R220). -/
def ErrorCode.num : ErrorCode → BitVec 4
  | .illegalCommand => 1#4
  | .invalidArgument => 2#4
  | .invalidRegister => 3#4
  | .windowClosed => 4#4
  | .windowOpen => 5#4
  | .direction => 6#4
  | .frameViolation => 7#4
  | .pinFault => 15#4

/-- The bit an error sets (R226, R35). -/
def Flags.mark (f : Flags) : ErrorCode → Flags
  | .illegalCommand => { f with eIll := true }
  | .invalidArgument => { f with eArg := true }
  | .invalidRegister => { f with eReg := true }
  | .windowClosed => { f with eWin := true }
  | .windowOpen => { f with eWin := true }
  | .direction => { f with eDir := true }
  | .frameViolation => { f with eFrame := true }
  | .pinFault => { f with fatal := true }

/-- `if FEV = 0: FEV <- 1; FIRSTERR <- HCW` (R226). -/
def Flags.recordFirst (f : Flags) (w : Word) : Flags :=
  if f.fev then f else { f with fev := true, firstErr := w }

/-- The error bookkeeping of a command that ends with an error (R226). -/
def Flags.note (f : Flags) (e : ErrorCode) (w : Word) : Flags := (f.mark e).recordFirst w

/-- The bit `IODIR` of STATUS: 1 = `OUT` (R29). -/
def Dir.bit : Dir → Bool
  | .inp => false
  | .out => true

/-- CSR 0x00 `STATUS` (R29). -/
def statusWord (s : State) : Word :=
  0#18 ++ BitVec.ofBool s.flags.eFrame ++ BitVec.ofBool s.flags.eDir ++ BitVec.ofBool s.flags.eWin
    ++ BitVec.ofBool s.flags.eReg ++ BitVec.ofBool s.flags.eArg ++ BitVec.ofBool s.flags.eIll
    ++ 0#2 ++ BitVec.ofBool s.flags.fev ++ BitVec.ofBool s.flags.fatal ++ BitVec.ofBool s.pins.ioOut
    ++ BitVec.ofBool s.pins.sclkLvl ++ BitVec.ofBool s.pins.ioDir.bit ++ BitVec.ofBool s.pins.ceAsserted

/-- CSR 0x03 `WIN` (R32). -/
def winWord (s : State) : Word := 0#16 ++ s.win.first ++ 0#3 ++ s.win.seq ++ s.win.len

/-- The block register of a CSR number (R29 to R33, R170), and `none` for a number that is not implemented (R34). -/
def csrValue (n : Byte) (s : State) : Option Word :=
  match n.toNat with
  | 0x00 => some (statusWord s)
  | 0x01 => some (zext32 s.rxbuf)
  | 0x02 => some s.result
  | 0x03 => some (winWord s)
  | 0x04 => some s.flags.firstErr
  | _ => none

end Sys2Proof.Machine
end

