-- ==== Sys2Proof/Machine/Ops.lean ====
section
/-! DEFINITION. The named operations: the state's updates, the draws (spec/00_scope.md R9, spec/40_transport.md R105), the
pin micro-operations (R100 to R104), the window tracker (R108, R109), the byte bodies (spec/41_framer.md R129), and how a
command begins and ends (spec/60_exceptions.md R220, R226, R229). The block has no trap, handler or return from one
(R227, R233): `execute` is its one shared way of reporting an error. -/

namespace Sys2Proof.Machine

/-- Sequencing (R13): the second part runs where the first ended, and not at all after an error. -/
def Run.bind {α β : Type} (r : Run α) (f : α → State → Run β) : Run β :=
  match r with
  | .done a s => f a s
  | .raised e s => .raised e s

/-- Sequencing of a part whose value is not used. -/
def Run.andThen {α β : Type} (r : Run α) (f : State → Run β) : Run β := r.bind fun _ s => f s

/-! ### Updates of the state -/

/-- Pin-fault draw `opCount` has been taken. -/
def State.countOp (s : State) : State := { s with opCount := s.opCount + 1 }

/-- Answer draw `smpCount` has been taken. -/
def State.countSample (s : State) : State := { s with smpCount := s.smpCount + 1 }

def State.setWin (s : State) (w : Window) : State := { s with win := w }

def State.setRxbuf (s : State) (b : Byte) : State := { s with rxbuf := b }

def State.setResult (s : State) (w : Word) : State := { s with result := w }

def State.setPending (s : State) (q : List Issue) : State := { s with pending := q }

def State.setFlags (s : State) (f : Flags) : State := { s with flags := f }

/-- A command completes, successfully or with an error: its response is given and `HOST_PC` advances by exactly 1
(R22, R220). -/
def State.respond (s : State) (e : BitVec 4) (v : Word) : State :=
  { s with responses := s.responses ++ [{ e := e, val := v }], hostPc := s.hostPc + 1 }

/-- What an event does to the pins (R24 to R28, R100 to R104). -/
def Event.onPins (p : Pins) : Event → Pins
  | .ce a => { p with ceAsserted := a }
  | .clk l => { p with sclkLvl := l }
  | .dir d => { p with ioDir := d }
  | .io l => { p with ioOut := l }
  | .smp _ => p

/-- `emit(e)`: the event is appended to the trace and performed on the pin (R14). -/
def State.emit (s : State) (e : Event) : State := { s with pins := e.onPins s.pins, trace := s.trace ++ [e] }

/-! ### The lines -/

/-- The level of the chip-select line (R14, R25). -/
def ceLine (s : State) : Bool := if s.pins.ceAsserted then s.params.ceActive else !s.params.ceActive

/-- The level the block drives on the data line: `IO_OUT` while `OUT`, and none while `IN` (R27, R28). -/
def drivenLevel (s : State) : Option Bool :=
  match s.pins.ioDir with
  | .out => some s.pins.ioOut
  | .inp => none

/-- The pin an event operates (R10, R14). -/
def Event.pin (p : Params) : Event → PinId
  | .ce _ => p.pinCe
  | .clk _ => p.pinClk
  | .dir _ => p.pinDat
  | .io _ => p.pinDat
  | .smp _ => p.pinDat

/-! ### Draws -/

/-- The peer's answer to sample `n` of the run (R9, R103). -/
def Draws.answer (d : Draws) (n : Nat) : Bool := (d.answers[n]?).getD (Config.peerAnswer n)

/-- Whether pin operation `n` of the run fails, where faults are admitted (R105). -/
def Draws.fails (d : Draws) (n : Nat) : Bool := (d.faults[n]?).getD (Config.pinFail n)

/-- Whether the next pin operation fails: only when `PIN_FAULTS` is true (R105, R232). -/
def State.opFails (s : State) : Bool := s.params.pinFaults && s.draws.fails s.opCount

/-- `sample()`: the answer of `PEER` (R15, R103). -/
def State.answer (s : State) : Bool := s.draws.answer s.smpCount

/-! ### Micro-operations -/

/-- One pin operation (R105, R232): the draw is taken before the event; a failed operation emits no event and changes no
pin state, and raises `PIN_FAULT`. -/
def pinOp (e : Event) (s : State) : Run Unit :=
  if s.opFails then .raised .pinFault s.countOp else .done () (s.countOp.emit e)

/-- `SETDIR(d)` (R100): the event is emitted even when the pin has that direction already. -/
def setDir (d : Dir) (s : State) : Run Unit := pinOp (.dir d) s

/-- `PULSE` (R101): high, then low. -/
def pulse (s : State) : Run Unit := (pinOp (.clk true) s).andThen (pinOp (.clk false))

/-- `DRIVE(l)` (R102): an error while the data pin is an input. -/
def drive (l : Bool) (s : State) : Run Unit :=
  if s.pins.ioDir = .out then pinOp (.io l) s else .raised .direction s

/-- `SAMPLE()` (R103): an error while the data pin is an output. -/
def sample (s : State) : Run Bool :=
  if s.pins.ioDir = .inp then (pinOp (.smp s.answer) s.countSample).bind fun _ s' => .done s.answer s'
  else .raised .direction s

/-- `CEON` (R104): a new window opens and the tracker is cleared. -/
def ceOn (s : State) : Run Unit :=
  (pinOp (.ce true) s).andThen fun s' => .done () (s'.setWin { len := 0#2, seq := 0#3, first := 0x00#8 })

/-- `CEOFF` (R104): the tracker keeps the closed window's shape (R110). -/
def ceOff (s : State) : Run Unit := pinOp (.ce false) s

/-! ### The window tracker -/

/-- `WIN_SEQ[k] <- b` (R108). -/
def setSeqBit (q : BitVec 3) (k : Nat) (b : Bool) : BitVec 3 :=
  (q &&& ~~~(1#3 <<< k)) ||| ((BitVec.ofBool b).zeroExtend 3 <<< k)

/-- `win_append` (R108); `received` is true for kind `R` and false for kind `T`. -/
def Window.append (w : Window) (received : Bool) (b : Byte) : Window :=
  { first := if w.len = 0#2 ∧ received = false then b else w.first
    seq := if w.len.toNat < 3 then setSeqBit w.seq w.len.toNat received else w.seq
    len := if w.len.toNat < 3 then w.len + 1#2 else w.len }

/-- `win_append` on the state. -/
def State.appendByte (s : State) (received : Bool) (b : Byte) : State := s.setWin (s.win.append received b)

/-- `valid_shape` (R109): `T T` with a write command byte, `T R` with a read command byte, or the burst command byte
alone. -/
def Window.validShape (w : Window) : Bool :=
  (w.len == 2#2 && w.seq == 0b000#3 && !w.first.getLsbD 0)
    || (w.len == 2#2 && w.seq == 0b010#3 && w.first.getLsbD 0)
    || (w.len == 1#2 && w.seq == 0b000#3 && w.first == burstByte)

/-! ### Bytes -/

/-- Each bit driven and pulsed, in order (R117, R129). -/
def sendBits : List Bool → State → Run Unit
  | [], s => .done () s
  | b :: bs, s => (drive b s).andThen fun s1 => (pulse s1).andThen fun s2 => sendBits bs s2

/-- Each bit sampled, put at its position, and pulsed, in order (R120, R129). -/
def receiveBits : List Nat → Byte → State → Run Byte
  | [], acc, s => .done acc s
  | i :: is, acc, s =>
    (sample s).bind fun b s1 => (pulse s1).andThen fun s2 => receiveBits is (orBit acc i b) s2

/-- `tx(x)` (R129): the body of `WRBYTE`. -/
def tx (x : Byte) (s : State) : Run Unit :=
  (setDir .out s).andThen fun s1 =>
    (sendBits (bitsLsb x) s1).andThen fun s2 => .done () (s2.appendByte false x)

/-- `rx()` (R129): the body of `RDBYTE`, with no write of `RESULT`. -/
def rx (s : State) : Run Byte :=
  (setDir .inp s).andThen fun s1 =>
    (receiveBits [0, 1, 2, 3, 4, 5, 6, 7] 0x00#8 s1).bind fun acc s2 => .done acc (s2.appendByte true acc)

/-! ### Commands -/

/-- The end of a command: success with its value, or the error's bookkeeping and the value 0 (R220, R226). -/
def finish (w : Word) : Run Word → State
  | .done v s => s.respond 0#4 v
  | .raised e s => (s.setFlags (s.flags.note e w)).respond e.num 0x00000000#32

/-- A command with word `w` (R229): while `FATAL` is 1 it is answered with `PIN_FAULT` before its body, and no flag and no
other field changes ("changes nothing at all", R226; "with no effect", R232), unless it is a legal `CSRRD` word (`exempt`,
R172). -/
def execute (w : Word) (exempt : Bool) (body : State → Run Word) (s : State) : State :=
  if s.flags.fatal && !exempt then s.respond ErrorCode.pinFault.num 0x00000000#32 else finish w (body s)

/-- A word that is no command (R174, R222): `ILLEGAL_COMMAND`, and nothing else. -/
def executeIllegal (w : Word) (s : State) : State := execute w false (fun s' => .raised .illegalCommand s') s

/-- What the decoder rejects: an illegal host command word gets its error response (R174); a reserved command byte is
refused (notes/assumptions/2.md). -/
def rejectIssue (i : Issue) (s : State) : Host.Outcome State Fault Refusal :=
  match i with
  | .word w => .next (executeIllegal w s)
  | .commandByte b => .refused (.reservedCommandByte b)

end Sys2Proof.Machine
end

