-- ==== Sys2Proof/Machine/Bcd.lean ====
section
/-! DEFINITION. The BCD family (spec/42_bcd.md): `BCDENC`, `BCDDEC`. Neither touches a pin. -/

namespace Sys2Proof.Machine

/-- The body of `BCDENC v` (R150). -/
def bcdencBody (v : BitVec 16) (s : State) : Run Word :=
  if bcdInRange (sint16 v) then
    .done (zext32 (bcdPack (sint16 v))) (s.setResult (zext32 (bcdPack (sint16 v))))
  else .raised .invalidArgument s

/-- The body of `BCDDEC d` (R153). -/
def bcddecBody (d : Byte) (s : State) : Run Word :=
  .done (zext32 (bcdValue d)) (s.setResult (zext32 (bcdValue d)))

/-- `BCDENC v` (R150). -/
def execBcdenc (v : BitVec 16) (s : State) : Host.Outcome State Fault Refusal :=
  .next (execute (hcwOf (.bcdenc v)) false (bcdencBody v) s)

/-- `BCDDEC d` (R153). -/
def execBcddec (d : Byte) (s : State) : Host.Outcome State Fault Refusal :=
  .next (execute (hcwOf (.bcddec d)) false (bcddecBody d) s)

end Sys2Proof.Machine
end

