-- ==== Sys2Proof/Machine/Transport.lean ====
section
/-! DEFINITION. The transport family (spec/40_transport.md): `CSON`, `CSOFF`, `WRBYTE`, `RDBYTE`. -/

namespace Sys2Proof.Machine

/-- The body of `CSON` (R111). -/
def csonBody (s : State) : Run Word :=
  if s.pins.ceAsserted then .raised .windowOpen s
  else (ceOn s).andThen fun s1 => .done 0x00000000#32 s1

/-- The body of `CSOFF` (R113): the shape is checked after the deassert. -/
def csoffBody (s : State) : Run Word :=
  if s.pins.ceAsserted then
    (ceOff s).andThen fun s1 =>
      if s1.win.validShape then .done 0x00000000#32 s1 else .raised .frameViolation s1
  else .raised .windowClosed s

/-- The body of `WRBYTE d` (R117). -/
def wrbyteBody (d : Byte) (s : State) : Run Word :=
  if s.pins.ceAsserted then (tx d s).andThen fun s1 => .done 0x00000000#32 s1
  else .raised .windowClosed s

/-- The body of `RDBYTE` (R120). -/
def rdbyteBody (s : State) : Run Word :=
  if s.pins.ceAsserted then
    (rx s).bind fun acc s1 => .done (zext32 acc) ((s1.setRxbuf acc).setResult (zext32 acc))
  else .raised .windowClosed s

/-- `CSON` (R111). -/
def execCson (s : State) : Host.Outcome State Fault Refusal := .next (execute (hcwOf .cson) false csonBody s)

/-- `CSOFF` (R113). -/
def execCsoff (s : State) : Host.Outcome State Fault Refusal := .next (execute (hcwOf .csoff) false csoffBody s)

/-- `WRBYTE d` (R117). -/
def execWrbyte (d : Byte) (s : State) : Host.Outcome State Fault Refusal :=
  .next (execute (hcwOf (.wrbyte d)) false (wrbyteBody d) s)

/-- `RDBYTE` (R120). -/
def execRdbyte (s : State) : Host.Outcome State Fault Refusal := .next (execute (hcwOf .rdbyte) false rdbyteBody s)

end Sys2Proof.Machine
end

