-- ==== Sys2Proof/Machine/CommandBytes.lean ====
section
/-! DEFINITION. The command-byte family: the eighteen command bytes of spec/30_encoding.md R71. A command byte is what
the block "sends to the peer first in every transaction"; the block sends a byte alone by the transport of
spec/40_transport.md R117 (R82, R85), so running a command byte is that transport of it (notes/assumptions/1.md). -/

namespace Sys2Proof.Machine

/-- The transport of one command byte: what the host command `WRBYTE b` does (R82, R117, R129). -/
def sendCommandByte (b : Byte) (s : State) : State := execute (wrbyteWord b) false (wrbyteBody b) s

/-- `SEC_W`, 0x80: Seconds, write (R71). -/
def execSecW (s : State) : Host.Outcome State Fault Refusal := .next (sendCommandByte 0x80#8 s)

/-- `SEC_R`, 0x81: Seconds, read (R71). -/
def execSecR (s : State) : Host.Outcome State Fault Refusal := .next (sendCommandByte 0x81#8 s)

/-- `MIN_W`, 0x82: Minutes, write (R71). -/
def execMinW (s : State) : Host.Outcome State Fault Refusal := .next (sendCommandByte 0x82#8 s)

/-- `MIN_R`, 0x83: Minutes, read (R71). -/
def execMinR (s : State) : Host.Outcome State Fault Refusal := .next (sendCommandByte 0x83#8 s)

/-- `HR_W`, 0x84: Hours, write (R71). -/
def execHrW (s : State) : Host.Outcome State Fault Refusal := .next (sendCommandByte 0x84#8 s)

/-- `HR_R`, 0x85: Hours, read (R71). -/
def execHrR (s : State) : Host.Outcome State Fault Refusal := .next (sendCommandByte 0x85#8 s)

/-- `DATE_W`, 0x86: Day of month, write (R71). -/
def execDateW (s : State) : Host.Outcome State Fault Refusal := .next (sendCommandByte 0x86#8 s)

/-- `DATE_R`, 0x87: Day of month, read (R71). -/
def execDateR (s : State) : Host.Outcome State Fault Refusal := .next (sendCommandByte 0x87#8 s)

/-- `MON_W`, 0x88: Month, write (R71). -/
def execMonW (s : State) : Host.Outcome State Fault Refusal := .next (sendCommandByte 0x88#8 s)

/-- `MON_R`, 0x89: Month, read (R71). -/
def execMonR (s : State) : Host.Outcome State Fault Refusal := .next (sendCommandByte 0x89#8 s)

/-- `DOW_W`, 0x8A: Day of week, write (R71). -/
def execDowW (s : State) : Host.Outcome State Fault Refusal := .next (sendCommandByte 0x8A#8 s)

/-- `DOW_R`, 0x8B: Day of week, read (R71). -/
def execDowR (s : State) : Host.Outcome State Fault Refusal := .next (sendCommandByte 0x8B#8 s)

/-- `YR_W`, 0x8C: Year, write (R71). -/
def execYrW (s : State) : Host.Outcome State Fault Refusal := .next (sendCommandByte 0x8C#8 s)

/-- `YR_R`, 0x8D: Year, read (R71). -/
def execYrR (s : State) : Host.Outcome State Fault Refusal := .next (sendCommandByte 0x8D#8 s)

/-- `WP_W`, 0x8E: Write-protect, write (R71). -/
def execWpW (s : State) : Host.Outcome State Fault Refusal := .next (sendCommandByte 0x8E#8 s)

/-- `TC_W`, 0x90: Trickle charger, write (R71). -/
def execTcW (s : State) : Host.Outcome State Fault Refusal := .next (sendCommandByte 0x90#8 s)

/-- `RAM_W`, 0xC0: RAM base, write (R71). -/
def execRamW (s : State) : Host.Outcome State Fault Refusal := .next (sendCommandByte 0xC0#8 s)

/-- `BURST`, 0xBE: Burst mode (R71). -/
def execBurst (s : State) : Host.Outcome State Fault Refusal := .next (sendCommandByte 0xBE#8 s)

end Sys2Proof.Machine
end

