-- ==== Sys2Proof/Machine/Control.lean ====
section
/-! DEFINITION. The control family (spec/43_control.md): `CSRRD`. -/

namespace Sys2Proof.Machine

/-- The body of `CSRRD n` (R170): the register's value, or `ILLEGAL_COMMAND` for a number that is not implemented (R171). -/
def csrrdBody (n : Byte) (s : State) : Run Word :=
  match csrValue n s with
  | some v => .done v s
  | none => .raised .illegalCommand s

/-- `CSRRD n` (R170), exempt from the refusal while `FATAL` is 1 (R172). -/
def execCsrrd (n : Byte) (s : State) : Host.Outcome State Fault Refusal :=
  .next (execute (hcwOf (.csrrd n)) true (csrrdBody n) s)

end Sys2Proof.Machine
end

