-- ==== Sys2Proof/Machine/Framer.lean ====
section
/-! DEFINITION. The framer family (spec/41_framer.md): `WRREG`, `RDREG`, `START`. -/

namespace Sys2Proof.Machine

/-- The body of `WRREG a, d` (R130). -/
def wrregBody (a d : Byte) (s : State) : Run Word :=
  if s.pins.ceAsserted then .raised .windowOpen s
  else if a ∈ wset then
    (ceOn s).andThen fun s1 =>
      (tx a s1).andThen fun s2 =>
        (tx d s2).andThen fun s3 =>
          (ceOff s3).andThen fun s4 => .done 0x00000000#32 s4
  else .raised .invalidRegister s

/-- The body of `RDREG a` (R136): `RXBUF` holds the raw byte, `RESULT` the decoded value. -/
def rdregBody (a : Byte) (s : State) : Run Word :=
  if s.pins.ceAsserted then .raised .windowOpen s
  else if a ∈ rset then
    (ceOn s).andThen fun s1 =>
      (tx a s1).andThen fun s2 =>
        (rx s2).bind fun raw s3 =>
          (ceOff s3).andThen fun s4 =>
            .done (zext32 (bcdValue raw)) ((s4.setRxbuf raw).setResult (zext32 (bcdValue raw)))
  else .raised .invalidRegister s

/-- The body of `START` (R141): the burst command byte alone. -/
def startBody (s : State) : Run Word :=
  if s.pins.ceAsserted then .raised .windowOpen s
  else
    (ceOn s).andThen fun s1 =>
      (tx burstByte s1).andThen fun s2 =>
        (ceOff s2).andThen fun s3 => .done 0x00000000#32 s3

/-- `WRREG a, d` (R130). -/
def execWrreg (a d : Byte) (s : State) : Host.Outcome State Fault Refusal :=
  .next (execute (hcwOf (.wrreg a d)) false (wrregBody a d) s)

/-- `RDREG a` (R136). -/
def execRdreg (a : Byte) (s : State) : Host.Outcome State Fault Refusal :=
  .next (execute (hcwOf (.rdreg a)) false (rdregBody a) s)

/-- `START` (R141). -/
def execStart (s : State) : Host.Outcome State Fault Refusal := .next (execute (hcwOf .start) false startBody s)

end Sys2Proof.Machine
end

