-- ==== Sys2Proof/Machine/Dispatch.lean ====
section
/-! DEFINITION. The dispatch: one arm per constructor of Instr, each one direct call of that instruction's meaning. -/

namespace Sys2Proof.Machine

def exec (i : Instr) (s : State) : Host.Outcome State Fault Refusal :=
  match i with
  | .cson => Sys2Proof.Machine.execCson s
  | .csoff => Sys2Proof.Machine.execCsoff s
  | .wrbyte d => Sys2Proof.Machine.execWrbyte d s
  | .rdbyte => Sys2Proof.Machine.execRdbyte s
  | .wrreg a d => Sys2Proof.Machine.execWrreg a d s
  | .rdreg a => Sys2Proof.Machine.execRdreg a s
  | .start => Sys2Proof.Machine.execStart s
  | .bcdenc v => Sys2Proof.Machine.execBcdenc v s
  | .bcddec d => Sys2Proof.Machine.execBcddec d s
  | .csrrd n => Sys2Proof.Machine.execCsrrd n s
  | .secW => Sys2Proof.Machine.execSecW s
  | .secR => Sys2Proof.Machine.execSecR s
  | .minW => Sys2Proof.Machine.execMinW s
  | .minR => Sys2Proof.Machine.execMinR s
  | .hrW => Sys2Proof.Machine.execHrW s
  | .hrR => Sys2Proof.Machine.execHrR s
  | .dateW => Sys2Proof.Machine.execDateW s
  | .dateR => Sys2Proof.Machine.execDateR s
  | .monW => Sys2Proof.Machine.execMonW s
  | .monR => Sys2Proof.Machine.execMonR s
  | .dowW => Sys2Proof.Machine.execDowW s
  | .dowR => Sys2Proof.Machine.execDowR s
  | .yrW => Sys2Proof.Machine.execYrW s
  | .yrR => Sys2Proof.Machine.execYrR s
  | .wpW => Sys2Proof.Machine.execWpW s
  | .tcW => Sys2Proof.Machine.execTcW s
  | .ramW => Sys2Proof.Machine.execRamW s
  | .burst => Sys2Proof.Machine.execBurst s

end Sys2Proof.Machine
end

