-- ==== Sys2Proof/Machine/Step.lean ====
section
/-! DEFINITION. One step (spec/00_scope.md R8): the block executes, atomically, the next thing the host issues, and waits
when there is none (spec/10_state.md R22). -/

namespace Sys2Proof.Machine

/-- One step of the machine (R8, R22, R229). -/
def step (s : State) : Host.Outcome State Fault Refusal :=
  match s.pending with
  | [] => .next s
  | issue :: rest =>
    match decode issue with
    | .ok i => exec i (s.setPending rest)
    | .error _ => rejectIssue issue (s.setPending rest)

/-- `s` with the instruction of `nbits` bits whose bits are `w` at the head of what the host issues next. 8 bits are a
command byte and 32 bits a host command word. What stood at the head, if anything, is replaced; the rest stays. -/
def State.withFetchWord (s : State) (nbits w : Nat) : State :=
  s.setPending
    ((if nbits = 8 then .commandByte (BitVec.ofNat 8 w) else .word (BitVec.ofNat 32 w)) :: s.pending.tail)

end Sys2Proof.Machine
end

