-- ==== Sys2Proof/Machine/Facade.lean ====
section
/-! DEFINITION. The clock/calendar façade (spec/46_host_sequences.md): host software made of block commands, in scope but
outside the block (spec/00_scope.md R5). Nothing here is state or behaviour of the block. -/

namespace Sys2Proof.Machine

/-- How a host operation ends (R180). -/
inductive HostRun (α : Type) where
  /-- it returns a value -/
  | ok (a : α) (s : State)
  /-- `fail(e)`: it ends with an error and issues nothing more -/
  | failed (e : BitVec 4) (s : State)
  /-- an operand has no encoding, so the command cannot be issued (R83, R152; notes/assumptions/9.md) -/
  | noEncoding (s : State)
  /-- the machine gave no next state or no response; no host command does that -/
  | stopped

/-- Propagation (R180, R181): a host operation goes on only after a success. -/
def HostRun.bind {α β : Type} (r : HostRun α) (f : α → State → HostRun β) : HostRun β :=
  match r with
  | .ok a s => f a s
  | .failed e s => .failed e s
  | .noEncoding s => .noEncoding s
  | .stopped => .stopped

/-- The state a host operation leaves, where it leaves one. -/
def HostRun.state {α : Type} : HostRun α → Option State
  | .ok _ s => some s
  | .failed _ s => some s
  | .noEncoding s => some s
  | .stopped => none

/-- `issue(w)` (R180): the word goes to the head of what the host issues, the block takes one step, and the response
comes back. -/
def issueWord (w : Word) (s : State) : HostRun Word :=
  match step (s.setPending (.word w :: s.pending)) with
  | .next t =>
    match t.responses.getLast? with
    | some r => if r.e = 0#4 then .ok r.val t else .failed r.e t
    | none => .stopped
  | .fault _ => .stopped
  | .refused _ => .stopped

/-- `issue` of a host command by its syntax. -/
def issue (i : Instr) (s : State) : HostRun Word := issueWord (hcwOf i) s

/-- The decimal digit `k`, 0..9. -/
def digitChar (k : Nat) : Char := Char.ofNat (48 + k)

/-- The digits of `n`, most significant first, before `acc`; `fuel` bounds their number. -/
def decDigits : Nat → Nat → List Char → List Char
  | 0, _, acc => acc
  | fuel + 1, n, acc =>
    if n / 10 = 0 then digitChar (n % 10) :: acc else decDigits fuel (n / 10) (digitChar (n % 10) :: acc)

/-- `dec(n)` (R156): base 10, no leading zeros, no sign, no padding. -/
def dec (n : Nat) : List Char := decDigits (n + 1) n []

/-- The six fields written and read alike, and the year (R182). -/
inductive Field where
  | seconds | minutes | hours | day | month | weekday | year
  deriving DecidableEq, Repr

/-- The write byte of a field (R182). -/
def Field.writeByte : Field → Byte
  | .seconds => 0x80#8
  | .minutes => 0x82#8
  | .hours => 0x84#8
  | .day => 0x86#8
  | .month => 0x88#8
  | .weekday => 0x8A#8
  | .year => 0x8C#8

/-- The read byte of a field (R182). -/
def Field.readByte : Field → Byte
  | .seconds => 0x81#8
  | .minutes => 0x83#8
  | .hours => 0x85#8
  | .day => 0x87#8
  | .month => 0x89#8
  | .weekday => 0x8B#8
  | .year => 0x8D#8

/-- The `setDate` guard of a field (R182, R191, R192): both comparisons hold. -/
def Field.guard (f : Field) (v : Int) : Bool :=
  match f with
  | .seconds => decide (-1 < v ∧ v < 60)
  | .minutes => decide (-1 < v ∧ v < 60)
  | .hours => decide (-1 < v ∧ v < 23)
  | .day => decide (0 < v ∧ v < 32)
  | .month => decide (0 < v ∧ v < 13)
  | .weekday => decide (0 < v ∧ v < 8)
  | .year => decide (v > 0)

/-- The write-protect command byte and its two values (R72). -/
def wpByte : Byte := 0x8E#8
def wpClear : Byte := 0x00#8
def wpArm : Byte := 0x80#8

/-- The four steps of a per-field write to the byte `fw` (R183, R184). A value of 80..99 is written with bit 7 = 1, as R150,
R183 and R185 give; R198 and R273 say otherwise of the seconds, and the model does not follow them there
(notes/assumptions/20.md: DEDUCED). -/
def writeCoded (fw : Byte) (v : Int) (s : State) : HostRun Unit :=
  if -32768 ≤ v ∧ v ≤ 32767 then
    (issue (.bcdenc (BitVec.ofInt 16 v)) s).bind fun b s1 =>
      (issue (.wrreg wpByte wpClear) s1).bind fun _ s2 =>
        (issue (.wrreg fw (b.setWidth 8)) s2).bind fun _ s3 =>
          (issue (.wrreg wpByte wpArm) s3).bind fun _ s4 => .ok () s4
  else .noEncoding s

/-- `writeYear(y)` (R186): a 4-digit year, its low two digits. -/
def writeYear (y : Int) (s : State) : HostRun Unit :=
  if y < 1000 ∨ y > 9999 then .failed ErrorCode.invalidArgument.num s
  else writeCoded (Field.writeByte .year) (y % 100) s

/-- `write<Field>(v)` (R183, R185, R186). -/
def writeField (f : Field) (v : Int) (s : State) : HostRun Unit :=
  match f with
  | .year => writeYear v s
  | .seconds => writeCoded (Field.writeByte .seconds) v s
  | .minutes => writeCoded (Field.writeByte .minutes) v s
  | .hours => writeCoded (Field.writeByte .hours) v s
  | .day => writeCoded (Field.writeByte .day) v s
  | .month => writeCoded (Field.writeByte .month) v s
  | .weekday => writeCoded (Field.writeByte .weekday) v s

/-- `read<Field>()` (R187), and `readYear()` with the century before it (R188). -/
def readField (f : Field) (s : State) : HostRun (List Char) :=
  (issue (.rdreg f.readByte) s).bind fun val s1 =>
    .ok (if f = .year then Config.century ++ dec val.toNat else dec val.toNat) s1

/-- `getDate()` (R189, R190): seven reads in the order day, month, year, hours, minutes, seconds, weekday. -/
def getDate (s : State) : HostRun (List Char) :=
  (readField .day s).bind fun d s1 =>
    (readField .month s1).bind fun m s2 =>
      (readField .year s2).bind fun y s3 =>
        (readField .hours s3).bind fun h s4 =>
          (readField .minutes s4).bind fun mi s5 =>
            (readField .seconds s5).bind fun sec s6 =>
              (readField .weekday s6).bind fun w s7 =>
                .ok ("Date: ".toList ++ d ++ ['.'] ++ m ++ ['.'] ++ y ++ [',', ' '] ++ h ++ [':'] ++ mi ++ [':']
                  ++ sec ++ ", Day: ".toList ++ w) s7

/-- One guarded write of `setDate` (R191): a field whose guard fails is skipped, with no error. -/
def writeGuarded (f : Field) (v : Int) (s : State) : HostRun Unit :=
  if f.guard v then writeField f v s else .ok () s

/-- `setDate(day, month, year, hour, minute, second, weekday)` (R191 to R193), in the order of its parameters. -/
def setDate (day month year hour minute second weekday : Int) (s : State) : HostRun Unit :=
  (writeGuarded .day day s).bind fun _ s1 =>
    (writeGuarded .month month s1).bind fun _ s2 =>
      (writeGuarded .year year s2).bind fun _ s3 =>
        (writeGuarded .hours hour s3).bind fun _ s4 =>
          (writeGuarded .minutes minute s4).bind fun _ s5 =>
            (writeGuarded .seconds second s5).bind fun _ s6 =>
              writeGuarded .weekday weekday s6

/-- `start()` (R195). -/
def startOperation (s : State) : HostRun Unit := (issue .start s).bind fun _ s1 => .ok () s1

end Sys2Proof.Machine
end

