-- ==== Sys2Proof/Machine/Assembler.lean ====
section
/-! DEFINITION. The assembler notation (spec/30_encoding.md R83 to R85): one command a line, symbolic operand names and
pseudo-instructions. Notation only: nothing of the block's behaviour rests on it. -/

namespace Sys2Proof.Machine

/-- Why a line is no command. -/
inductive AsmError where
  | unknownMnemonic
  | wrongNumberOfOperands
  | notANumber
  | operandOutOfRange
  deriving DecidableEq, Repr

/-- A number as written: a leading `-`, and its magnitude. -/
structure Literal where
  neg : Bool
  mag : Nat
  deriving DecidableEq, Repr

/-- The symbolic operand names of R84, the command bytes and the CSR numbers. -/
def symbolValue (name : String) : Option Nat :=
  match name with
  | "SEC_W" => some 0x80
  | "SEC_R" => some 0x81
  | "MIN_W" => some 0x82
  | "MIN_R" => some 0x83
  | "HR_W" => some 0x84
  | "HR_R" => some 0x85
  | "DATE_W" => some 0x86
  | "DATE_R" => some 0x87
  | "MON_W" => some 0x88
  | "MON_R" => some 0x89
  | "DOW_W" => some 0x8A
  | "DOW_R" => some 0x8B
  | "YR_W" => some 0x8C
  | "YR_R" => some 0x8D
  | "WP_W" => some 0x8E
  | "TC_W" => some 0x90
  | "RAM_W" => some 0xC0
  | "BURST" => some 0xBE
  | "STATUS" => some 0x00
  | "RXBUF" => some 0x01
  | "RESULT" => some 0x02
  | "WIN" => some 0x03
  | "FIRSTERR" => some 0x04
  | _ => none

/-- The value of a hexadecimal digit, in either case. -/
def hexDigit (c : Char) : Option Nat :=
  let n := c.toNat
  if 48 ≤ n ∧ n ≤ 57 then some (n - 48)
  else if 65 ≤ n ∧ n ≤ 70 then some (n - 55)
  else if 97 ≤ n ∧ n ≤ 102 then some (n - 87)
  else none

/-- The value of digits in a base, after `acc`. -/
def digitsValue (base : Nat) : List Char → Nat → Option Nat
  | [], acc => some acc
  | c :: cs, acc =>
    match hexDigit c with
    | some d => if d < base then digitsValue base cs (acc * base + d) else none
    | none => none

/-- An unsigned number: decimal, or hexadecimal with `0x` (R83). -/
def parseUnsigned (cs : List Char) : Option Nat :=
  match cs with
  | [] => none
  | ['0', 'x'] => none
  | '0' :: 'x' :: ds => digitsValue 16 ds 0
  | ds => digitsValue 10 ds 0

/-- An operand: a symbolic name, or a number with a leading `-` allowed before a decimal one (R83, R84). -/
def parseOperand (cs : List Char) : Except AsmError Literal :=
  match symbolValue (String.ofList cs) with
  | some n => .ok { neg := false, mag := n }
  | none =>
    match cs with
    | '-' :: ds =>
      match ds, digitsValue 10 ds 0 with
      | _ :: _, some n => .ok { neg := true, mag := n }
      | _, _ => .error .notANumber
    | ds =>
      match parseUnsigned ds with
      | some n => .ok { neg := false, mag := n }
      | none => .error .notANumber

/-- A byte operand: 0..255, with no sign (R83). -/
def byteOperand (l : Literal) : Except AsmError Byte :=
  if l.neg = false ∧ l.mag ≤ 255 then .ok (BitVec.ofNat 8 l.mag) else .error .operandOutOfRange

/-- The operand of `BCDENC`: -32768..32767 (R83). -/
def intOperand (l : Literal) : Except AsmError (BitVec 16) :=
  let v : Int := if l.neg then -(l.mag : Int) else (l.mag : Int)
  if -32768 ≤ v ∧ v ≤ 32767 then .ok (BitVec.ofInt 16 v) else .error .operandOutOfRange

/-- The pseudo-instructions and their expansions (R85). -/
def wpoff : List Instr := [.wrreg wpByte wpClear]
def wpon : List Instr := [.wrreg wpByte wpArm]
def pwrreg (a d : Byte) : List Instr := wpoff ++ [.wrreg a d] ++ wpon
def rawwr (a d : Byte) : List Instr := [.cson, .wrbyte a, .wrbyte d, .csoff]
def rawrd (a : Byte) : List Instr := [.cson, .wrbyte a, .rdbyte, .csoff]

/-- A line of a mnemonic with two byte operands, one, or none. -/
def twoBytes (ops : List Literal) (f : Byte → Byte → List Instr) : Except AsmError (List Instr) :=
  match ops with
  | [x, y] => do
    let a ← byteOperand x
    let d ← byteOperand y
    .ok (f a d)
  | _ => .error .wrongNumberOfOperands

def oneByte (ops : List Literal) (f : Byte → List Instr) : Except AsmError (List Instr) :=
  match ops with
  | [x] => do
    let a ← byteOperand x
    .ok (f a)
  | _ => .error .wrongNumberOfOperands

def noOperand (ops : List Literal) (is : List Instr) : Except AsmError (List Instr) :=
  match ops with
  | [] => .ok is
  | _ => .error .wrongNumberOfOperands

/-- A mnemonic with its operands (R83, R85). -/
def assembleOp (mnemonic : String) (ops : List Literal) : Except AsmError (List Instr) :=
  match mnemonic with
  | "CSON" => noOperand ops [.cson]
  | "CSOFF" => noOperand ops [.csoff]
  | "RDBYTE" => noOperand ops [.rdbyte]
  | "START" => noOperand ops [.start]
  | "WRBYTE" => oneByte ops fun d => [.wrbyte d]
  | "WRREG" => twoBytes ops fun a d => [.wrreg a d]
  | "RDREG" => oneByte ops fun a => [.rdreg a]
  | "BCDDEC" => oneByte ops fun d => [.bcddec d]
  | "CSRRD" => oneByte ops fun n => [.csrrd n]
  | "BCDENC" =>
    match ops with
    | [x] => do
      let v ← intOperand x
      .ok [.bcdenc v]
    | _ => .error .wrongNumberOfOperands
  | "WPOFF" => noOperand ops wpoff
  | "WPON" => noOperand ops wpon
  | "PWRREG" => twoBytes ops pwrreg
  | "RAWWR" => twoBytes ops rawwr
  | "RAWRD" => oneByte ops rawrd
  | _ => .error .unknownMnemonic

/-- White space within a line. -/
def isBlank (c : Char) : Bool := c = ' ' || c = '\t'

/-- A text without the blanks around it. -/
def trimBlanks (cs : List Char) : List Char :=
  ((cs.dropWhile isBlank).reverse.dropWhile isBlank).reverse

/-- The pieces of a text between commas. -/
def splitCommas : List Char → List (List Char)
  | [] => [[]]
  | c :: cs =>
    match splitCommas cs with
    | [] => [[]]
    | p :: ps => if c = ',' then [] :: p :: ps else (c :: p) :: ps

/-- The operands of a line, none where the text is empty. -/
def parseOperands (cs : List Char) : Except AsmError (List Literal) :=
  match trimBlanks cs with
  | [] => .ok []
  | ds => (splitCommas ds).mapM fun p => parseOperand (trimBlanks p)

/-- One line (R83): `;` starts a comment, and an empty line is no command. -/
def assembleLine (line : List Char) : Except AsmError (List Instr) :=
  let text := trimBlanks (line.takeWhile (· ≠ ';'))
  match text with
  | [] => .ok []
  | _ => do
    let ops ← parseOperands (text.dropWhile fun c => !isBlank c)
    assembleOp (String.ofList (text.takeWhile fun c => !isBlank c)) ops

/-- The host command words of a line. -/
def assembleWords (line : List Char) : Except AsmError (List Word) := do
  let is ← assembleLine line
  .ok (is.map hcwOf)

end Sys2Proof.Machine
end

