-- ==== Sys2Proof/Machine/Peer.lean ====
section
/-! DEFINITION. The REFERENCE PEER (spec/60_exceptions.md R245 to R253), which is informative (R254): an observer of the
pin-event trace, no state of the block (R9, R21, R43). No meaning reads it; a claim that uses it names it as a premise,
by `RefPeer.agrees`, together with `DESYNC = 0` and no pin fault. -/

namespace Sys2Proof.Machine

/-- What a window does to the peer where the spec leaves it open: registers written, in order, the shadow copy replaced, and
the bit counter lost. -/
structure PeerEffect where
  writes : List (PeerClass × BitVec 5 × Byte)
  shadow : Option (Vector Byte 8)
  desync : Bool
  deriving DecidableEq, Repr

/-- The reference peer's free draws (R245, R247, R252, R253, R82; of the shadow copy, notes/assumptions/8.md): an argument of
every claim, so a claim holds for all. -/
structure PeerDraws where
  /-- the register values at power-up (R245) -/
  powerUp : PeerClass → BitVec 5 → Byte
  /-- the burst shadow copy at power-up, of which the spec says nothing (the model's choice, notes/assumptions/8.md) -/
  shadow : Vector Byte 8
  /-- before window `n`, what clock register `i` becomes from its old value while the clock runs (R253) -/
  tick : Nat → BitVec 5 → Byte → Byte
  /-- in window `n`, whether the armed gate blocks a write to this location outside the clock/calendar ones (R247) -/
  gatesOther : Nat → PeerClass → BitVec 5 → Bool
  /-- what window `n` does while the peer is desynchronized (R252), or with a command byte outside the enumeration (R54, R82;
  notes/assumptions/8.md, 21.md) -/
  stray : Nat → PeerEffect

/-- The reference peer (R245), and what it has received in the window (R246). -/
structure RefPeer where
  /-- `PeerReg[clock][i]` -/
  clock : Vector Byte 32
  /-- `PeerReg[RAM][i]` -/
  ram : Vector Byte 32
  /-- the burst shadow copy of the 8 clock registers (R250) -/
  shadow : Vector Byte 8
  /-- `DESYNC` (R252) -/
  desync : Bool
  /-- how many windows have been opened -/
  windows : Nat
  /-- the direction of the block's data pin, and the level on the line -/
  lineDir : Dir
  lineLevel : Bool
  /-- the levels taken at the `CLK(1)` events of the window, event 0 first (R246) -/
  bits : List Bool
  /-- for each byte of the window, whether the block was receiving when it began -/
  kinds : List Bool
  /-- what the block has sampled in the window, the first first -/
  samples : List Bool
  deriving DecidableEq, Repr

/-- Power-up (R245); the shadow copy is a draw too, the model's choice (notes/assumptions/8.md). -/
def RefPeer.powerUp (d : PeerDraws) : RefPeer :=
  { clock := Vector.ofFn fun i => d.powerUp .clock (BitVec.ofFin i)
    ram := Vector.ofFn fun i => d.powerUp .ram (BitVec.ofFin i)
    shadow := d.shadow
    desync := false
    windows := 0
    lineDir := .inp
    lineLevel := false
    bits := []
    kinds := []
    samples := [] }

/-- `PeerReg[c][i]`. -/
def RefPeer.reg (p : RefPeer) (c : PeerClass) (i : BitVec 5) : Byte :=
  match c with
  | .clock => p.clock[i.toNat]'i.isLt
  | .ram => p.ram[i.toNat]'i.isLt

/-- `PeerReg[c][i] <- v`. -/
def RefPeer.setReg (p : RefPeer) (c : PeerClass) (i : BitVec 5) (v : Byte) : RefPeer :=
  match c with
  | .clock => { p with clock := p.clock.set i.toNat v i.isLt }
  | .ram => { p with ram := p.ram.set i.toNat v i.isLt }

/-- A byte from its bits, bit 0 first (R56). -/
def byteOfBits (bits : List Bool) : Byte :=
  bits.foldr (fun b acc => (acc <<< 1) ||| (BitVec.ofBool b).zeroExtend 8) 0x00#8

/-- The command byte: bits 0..7 of the window (R246). -/
def RefPeer.command (p : RefPeer) : Byte := byteOfBits (p.bits.take 8)

/-- The data byte: bits 8..15 of the window (R246). -/
def RefPeer.dataByte (p : RefPeer) : Byte := byteOfBits ((p.bits.drop 8).take 8)

/-- The halt bit: bit 7 of the seconds register (R249). -/
def RefPeer.halted (p : RefPeer) : Bool := (p.reg .clock 0#5).getLsbD 7

/-- The write-protect gate: bit 7 of the write-protect register (R247). -/
def RefPeer.armed (p : RefPeer) : Bool := (p.reg .clock 7#5).getLsbD 7

/-- Between two windows the seven clock/calendar registers may change while the halt bit is 0 (R249, R253). -/
def RefPeer.ticked (d : PeerDraws) (p : RefPeer) : RefPeer :=
  if p.halted then p
  else
    { p with
      clock := Vector.ofFn fun i : Fin 32 =>
        if i.val < 7 then d.tick p.windows (BitVec.ofFin i) p.clock[i] else p.clock[i] }

/-- Whether a write is ignored (R247). -/
def RefPeer.ignores (d : PeerDraws) (p : RefPeer) (c : PeerClass) (i : BitVec 5) : Bool :=
  p.armed &&
    (if c = .clock ∧ i.toNat < 7 then true
     else if c = .clock ∧ i.toNat = 7 then false
     else d.gatesOther p.windows c i)

/-- The window received is a valid `T T` one (R109, R248). -/
def RefPeer.isWrite (p : RefPeer) : Bool :=
  p.bits.length == 16 && p.kinds == [false, false] && !p.command.getLsbD 0

/-- The window received is a valid `T R` one (R109, R251). -/
def RefPeer.isRead (p : RefPeer) : Bool :=
  p.bits.length == 16 && p.kinds == [false, true] && p.command.getLsbD 0

/-- The window received is the burst command byte alone (R109, R250). -/
def RefPeer.isBurst (p : RefPeer) : Bool := p.bits.length == 8 && p.kinds == [false] && p.command == burstByte

/-- The command byte of the window is in none of the sets of R81. -/
def RefPeer.isOutside (p : RefPeer) : Bool := !(decide (p.command ∈ wset ++ rset) || p.command == burstByte)

/-- The peer after an effect that the spec leaves open; only a reset clears `DESYNC` (R252). -/
def RefPeer.affect (p : RefPeer) (e : PeerEffect) : RefPeer :=
  { e.writes.foldl (fun q w => q.setReg w.1 w.2.1 w.2.2) p with
    shadow := e.shadow.getD p.shadow
    desync := p.desync || e.desync }

/-- The answers that the peer gives in the window that closes now: of a valid `T R` window the addressed register, bit 0
first (R251). Where the rule gives none, each sample is a free draw (R9): while desynchronized (R252); in a window of any
other shape, its first read byte too, which is the model's reading of R251 (notes/assumptions/8.md); and in a window whose
command byte is outside the enumeration, where the model follows R82 before R251 (notes/assumptions/21.md). -/
def RefPeer.answers (p : RefPeer) : Option (List Bool) :=
  if p.desync = false ∧ p.isRead = true ∧ p.isOutside = false then
    some (bitsLsb (p.reg (classOf p.command) (indexOf p.command)))
  else none

/-- The close of a window (R248, R250, R251, R252). Two points are the model's choice. While desynchronized the window's
effect is a draw, the shadow copy with it: a lone 0xBE may latch it, keep it or leave any other (notes/assumptions/8.md).
And the effect of a window of valid shape whose command byte is outside the enumeration is a draw, where the model follows
R82 before R248 and R251 (notes/assumptions/21.md). -/
def RefPeer.close (d : PeerDraws) (p : RefPeer) : RefPeer :=
  if p.desync then p.affect (d.stray p.windows)
  else if (p.isWrite || p.isRead) && p.isOutside then p.affect (d.stray p.windows)
  else if p.isWrite then
    if p.ignores d (classOf p.command) (indexOf p.command) then p
    else p.setReg (classOf p.command) (indexOf p.command) p.dataByte
  else if p.isRead then p
  else if p.isBurst then { p with shadow := Vector.ofFn fun i : Fin 8 => p.clock[i.val] }
  else { p with desync := true }

/-- What the peer does at an event of the trace (R246, R248, R253). -/
def RefPeer.observe (d : PeerDraws) (p : RefPeer) : Event → RefPeer
  | .ce true =>
    let q := p.ticked d
    { q with bits := [], kinds := [], samples := [], windows := q.windows + 1 }
  | .ce false => p.close d
  | .dir dd => { p with lineDir := dd }
  | .io l => { p with lineLevel := l }
  | .smp b => { p with lineLevel := b, samples := p.samples ++ [b] }
  | .clk true =>
    { p with
      bits := p.bits ++ [p.lineLevel]
      kinds := if p.bits.length % 8 = 0 then p.kinds ++ [decide (p.lineDir = .inp)] else p.kinds }
  | .clk false => p

/-- The peer after a part of the trace. -/
def RefPeer.observeAll (d : PeerDraws) (p : RefPeer) : List Event → RefPeer
  | [] => p
  | e :: es => RefPeer.observeAll d (p.observe d e) es

/-- In every window that the events close, what the block sampled is what this peer answers, where it gives answers. -/
def RefPeer.agrees (d : PeerDraws) (p : RefPeer) : List Event → Bool
  | [] => true
  | e :: es =>
    (match e with
      | .ce false => p.answers.all (· == p.samples)
      | .ce true => true
      | .smp _ => true
      | .clk _ => true
      | .dir _ => true
      | .io _ => true)
      && RefPeer.agrees d (p.observe d e) es

end Sys2Proof.Machine
end

