-- ==== Sys2Proof/Safety.lean ====
section
/-! DEFINITION. The terms claims are stated in: the event lists of the spec (spec/40_transport.md R118, R121), when no pin
operation fails, which error a command is refused with (spec/60_exceptions.md R229, R230), and the invariants. -/

namespace Sys2Proof.Machine

/-- The 25 events of sending byte `x` (R118). -/
def txEvents (x : Byte) : List Event :=
  .dir .out :: (bitsLsb x).flatMap fun b => [.io b, .clk true, .clk false]

/-- The events of receiving these bits (R121). -/
def rxEvents (bits : List Bool) : List Event :=
  .dir .inp :: bits.flatMap fun b => [.smp b, .clk true, .clk false]

/-- The eight answers the next byte read gets, bit 0 first (R103, R121). -/
def State.answeredBits (s : State) : List Bool :=
  [0, 1, 2, 3, 4, 5, 6, 7].map fun k => s.draws.answer (s.smpCount + k)

/-- The value of those answers: `b0 | b1<<1 | ... | b7<<7` (R121). -/
def State.answeredByte (s : State) : Byte := byteOfBits s.answeredBits

/-- The eight answers of the byte read after `n` more samples, bit 0 first (R103, R121). -/
def State.answeredBitsAt (s : State) (n : Nat) : List Bool :=
  [0, 1, 2, 3, 4, 5, 6, 7].map fun k => s.draws.answer (s.smpCount + n + k)

/-- The value of those answers. -/
def State.answeredByteAt (s : State) (n : Nat) : Byte := byteOfBits (s.answeredBitsAt n)

/-- Whether the k-th pin operation from here fails (R105). -/
def State.failsAt (s : State) (k : Nat) : Bool := s.params.pinFaults && s.draws.fails (s.opCount + k)

/-- None of the next `n` pin operations fails. -/
abbrev State.quiet (s : State) (n : Nat) : Prop := ∀ k, k < n → s.failsAt k = false

/-- The next `k` pin operations succeed and the one after them fails. -/
abbrev State.firstFailsAt (s : State) (k : Nat) : Prop := s.quiet k ∧ s.failsAt k = true

/-- The 52 events of a framed write of `d` to `a` (R130, R131). -/
def writeEvents (a d : Byte) : List Event := .ce true :: (txEvents a ++ (txEvents d ++ [.ce false]))

/-- The 52 events of a framed read of `a` whose answers are `bits` (R136, R137). -/
def readEvents (a : Byte) (bits : List Bool) : List Event := .ce true :: (txEvents a ++ (rxEvents bits ++ [.ce false]))

/-- The 156 events of a per-field write of `v` to the register of write byte `a`: write-protect cleared, the packed BCD byte
written, write-protect armed (R183, R150, R72). -/
def fieldWriteEvents (a : Byte) (v : Int) : List Event :=
  writeEvents 0x8E#8 0x00#8 ++
    (writeEvents a (BitVec.ofNat 8 (v / 10 * 16 + v % 10).toNat) ++ writeEvents 0x8E#8 0x80#8)

/-- The levels the block puts on the data line at the rising clock edges of an event list, from level `l` (R101, R246). -/
def clockedLevels : Bool → List Event → List Bool
  | _, [] => []
  | _, .io l' :: es => clockedLevels l' es
  | l, .clk true :: es => l :: clockedLevels l es
  | l, .clk false :: es => clockedLevels l es
  | l, .ce _ :: es => clockedLevels l es
  | l, .dir _ :: es => clockedLevels l es
  | l, .smp _ :: es => clockedLevels l es

/-- The events of a command that runs to its end (R111, R113, R117, R120, R130, R136, R141, R65). -/
def commandEvents (i : Instr) (s : State) : List Event :=
  match i with
  | .cson => [.ce true]
  | .csoff => [.ce false]
  | .wrbyte d => txEvents d
  | .rdbyte => rxEvents s.answeredBits
  | .wrreg a d => writeEvents a d
  | .rdreg a => readEvents a s.answeredBits
  | .start => .ce true :: (txEvents 0xBE#8 ++ [.ce false])
  | .bcdenc _ | .bcddec _ | .csrrd _ => []
  | .secW => txEvents 0x80#8
  | .secR => txEvents 0x81#8
  | .minW => txEvents 0x82#8
  | .minR => txEvents 0x83#8
  | .hrW => txEvents 0x84#8
  | .hrR => txEvents 0x85#8
  | .dateW => txEvents 0x86#8
  | .dateR => txEvents 0x87#8
  | .monW => txEvents 0x88#8
  | .monR => txEvents 0x89#8
  | .dowW => txEvents 0x8A#8
  | .dowR => txEvents 0x8B#8
  | .yrW => txEvents 0x8C#8
  | .yrR => txEvents 0x8D#8
  | .wpW => txEvents 0x8E#8
  | .tcW => txEvents 0x90#8
  | .ramW => txEvents 0xC0#8
  | .burst => txEvents 0xBE#8

/-- The error of a command that needs an open window (R225). -/
def needsWindow (s : State) : Option ErrorCode := if s.pins.ceAsserted then none else some .windowClosed

/-- The error of a command that needs a closed window, before its operand's error (R225, R230). -/
def needsNoWindow (s : State) (operand : Option ErrorCode) : Option ErrorCode :=
  if s.pins.ceAsserted then some .windowOpen else operand

/-- The error the checks of a command find, before its first event (R222 to R225, R227, R230). -/
def checkError (i : Instr) (s : State) : Option ErrorCode :=
  match i with
  | .cson | .start => needsNoWindow s none
  | .wrreg a _ => needsNoWindow s (if a ∈ wset then none else some .invalidRegister)
  | .rdreg a => needsNoWindow s (if a ∈ rset then none else some .invalidRegister)
  | .bcdenc v => if 0 ≤ v.toInt ∧ v.toInt ≤ 99 then none else some .invalidArgument
  | .bcddec _ => none
  | .csrrd n => if n.toNat ≤ 0x04 then none else some .illegalCommand
  | .csoff | .wrbyte _ | .rdbyte => needsWindow s
  | .secW | .secR | .minW | .minR | .hrW | .hrR | .dateW | .dateR | .monW | .monR | .dowW | .dowR => needsWindow s
  | .yrW | .yrR | .wpW | .tcW | .ramW | .burst => needsWindow s

/-- `CSRRD` (R172). -/
def isCsrrd : Instr → Bool
  | .csrrd _ => true
  | .cson | .csoff | .wrbyte _ | .rdbyte | .wrreg _ _ | .rdreg _ | .start | .bcdenc _ | .bcddec _ => false
  | .secW | .secR | .minW | .minR | .hrW | .hrR | .dateW | .dateR | .monW | .monR | .dowW | .dowR => false
  | .yrW | .yrR | .wpW | .tcW | .ramW | .burst => false

/-- The error a command is refused with before its first event: `FATAL` first (R229, R230). -/
def refusedWith (i : Instr) (s : State) : Option ErrorCode :=
  if s.flags.fatal && !isCsrrd i then some .pinFault else checkError i s

/-- A state in which the last command's error has been recorded and answered, and nothing else changed (R226). -/
def State.answeredError (s : State) (e : ErrorCode) (w : Word) : State :=
  { s with
    flags := s.flags.note e w
    responses := s.responses ++ [{ e := e.num, val := 0#32 }]
    hostPc := s.hostPc + 1 }

/-- A state in which the last command has been answered with `PIN_FAULT` because `FATAL` was 1 already: no flag and no
other field of the block changed (R226, R232). -/
def State.answeredFatal (s : State) : State :=
  { s with responses := s.responses ++ [{ e := 15#4, val := 0#32 }], hostPc := s.hostPc + 1 }

/-- A state in which the last command's success has been answered with a value, and nothing else changed (R220). -/
def State.answeredValue (s : State) (v : Word) : State :=
  { s with responses := s.responses ++ [{ e := 0#4, val := v }], hostPc := s.hostPc + 1 }

/-- The number a flag stands for. -/
def bitValue (b : Bool) : Nat := if b then 1 else 0

/-- STATUS as the sum of its fields at their places (R29). -/
def statusNumber (s : State) : Nat :=
  bitValue s.pins.ceAsserted + 2 * bitValue (s.pins.ioDir == .out) + 4 * bitValue s.pins.sclkLvl
    + 8 * bitValue s.pins.ioOut + 16 * bitValue s.flags.fatal + 32 * bitValue s.flags.fev
    + 256 * bitValue s.flags.eIll + 512 * bitValue s.flags.eArg + 1024 * bitValue s.flags.eReg
    + 2048 * bitValue s.flags.eWin + 4096 * bitValue s.flags.eDir + 8192 * bitValue s.flags.eFrame

/-- WIN as the sum of its fields at their places (R32). -/
def winNumber (s : State) : Nat := s.win.len.toNat + 4 * s.win.seq.toNat + 256 * s.win.first.toNat

/-- The value a text of decimal digits stands for. -/
def decValue (cs : List Char) : Nat := cs.foldl (fun acc c => 10 * acc + (c.toNat - 48)) 0

/-- A trace with the sampled bits blotted out. -/
def Event.shape : Event → Event
  | .smp _ => .smp false
  | .ce a => .ce a
  | .clk l => .clk l
  | .dir d => .dir d
  | .io l => .io l

/-- The tracker of a window in which nothing has moved (R104). -/
def emptyWindow : Window := { len := 0#2, seq := 0#3, first := 0x00#8 }

/-- The tracker when pin operation `k` of `WRREG a, d` or of `RDREG a` fails: a byte not completed is not in it (R108,
R232). -/
def framedWin (w : Window) (a : Byte) (k : Nat) : Window :=
  if k < 1 then w else if k < 26 then emptyWindow else emptyWindow.append false a

/-! ### Invariants -/

/-- The pins at reset (R39). -/
def resetPins : Pins := { sclkLvl := false, ceAsserted := false, ioDir := .inp, ioOut := false }

/-- An event that R14 calls legal at these pins: `IO` only in `OUT`, `SMP` only in `IN`. -/
def Event.legalAt (p : Pins) : Event → Bool
  | .io _ => p.ioDir == .out
  | .smp _ => p.ioDir == .inp
  | .ce _ => true
  | .clk _ => true
  | .dir _ => true

/-- Every event of a trace is legal where it happens (R14). -/
def eventsLegal : Pins → List Event → Bool
  | _, [] => true
  | p, e :: es => e.legalAt p && eventsLegal (e.onPins p) es

/-- The pins are what the trace has made of the reset levels, and every event of it was legal (R14, R24 to R27, R42). -/
abbrev State.PinsFollowTrace (s : State) : Prop :=
  s.pins = s.trace.foldl Event.onPins resetPins ∧ eventsLegal resetPins s.trace = true

/-- Between commands the clock line is low, unless a pin fault stopped a pulse (R24, R101, R105); and every pin operation
attempted has its event in the trace, but the one that failed (R105, R232). -/
abbrev State.ClockIdle (s : State) : Prop :=
  (s.flags.fatal = false → s.pins.sclkLvl = false) ∧
    s.opCount = s.trace.length + (if s.flags.fatal then 1 else 0)

/-- Some sticky bit or `FATAL` is set. -/
def Flags.anySet (f : Flags) : Bool :=
  f.eIll || f.eArg || f.eReg || f.eWin || f.eDir || f.eFrame || f.fatal

/-- `E_DIR` is never set (R107), `FEV` tells whether any error was recorded (R226), and `FIRSTERR` is 0 before (R33). -/
abbrev State.FlagsConsistent (s : State) : Prop :=
  s.flags.eDir = false ∧ s.flags.fev = s.flags.anySet ∧ (s.flags.fev = false → s.flags.firstErr = 0#32)

/-- A bit of `WIN_SEQ` is set only for a byte of the window, and `WIN_FIRST` is 0 when its first byte was received or it
holds none (R108). -/
abbrev State.TrackerConsistent (s : State) : Prop :=
  s.win.seq.toNat < 2 ^ s.win.len.toNat ∧
    ((s.win.len = 0#2 ∨ s.win.seq.getLsbD 0 = true) → s.win.first = 0#8)

/-- One response for each command issued (R22), with the value 0 on an error, and an error code that is in use (R220);
code 6 is not (R107). -/
abbrev State.ResponsesConsistent (s : State) : Prop :=
  s.hostPc = s.responses.length ∧
    ∀ r ∈ s.responses, (r.e ≠ 0#4 → r.val = 0#32) ∧ r.e ∈ [0#4, 1#4, 2#4, 3#4, 4#4, 5#4, 7#4, 15#4]

end Sys2Proof.Machine
end

