-- ==== Sys2Proof/Certificates/Slice0/Obligations.lean ====
section
/-! DEFINITION. The statements for the provers. A statement over every instruction speaks of the eighteen command bytes too,
and there rests on the model's choice that such a row is a WRBYTE of its byte (notes/assumptions/1.md). -/

open Sys2Proof Sys2Proof.Machine

/-! ### Reset -/

/-- R39: after reset every field of the block holds its value and the lines stand at their levels, whatever the parameters;
and reset is silent (R260). The fields that are the model's own are in notes/assumptions/3.md, 4.md, 7.md, 11.md. -/
def Obligations.ResetHoldsEveryStatedValue : Prop :=
  ∀ p : Params,
    (State.construct p).pins = { sclkLvl := false, ceAsserted := false, ioDir := .inp, ioOut := false } ∧
    (State.construct p).rxbuf = 0x00#8 ∧ (State.construct p).result = 0#32 ∧
    (State.construct p).win = { len := 0#2, seq := 0#3, first := 0x00#8 } ∧
    (State.construct p).flags =
      { eIll := false, eArg := false, eReg := false, eWin := false, eDir := false, eFrame := false
        fev := false, fatal := false, firstErr := 0#32 } ∧
    ceLine (State.construct p) = !p.ceActive ∧ drivenLevel (State.construct p) = none ∧
    (State.construct p).trace = [] ∧ (State.construct p).params = p ∧
    State.reset = State.construct Config.defaultParams

/-! ### Encoding -/

/-- Decoding an encoded instruction gives it back, for every instruction and every operand (R74 to R77, R86). -/
def Obligations.DecodeOfEncodeIsTheInstruction : Prop := ∀ i : Instr, decode (encode i) = .ok i

/-- What decodes is the encoding of what it decodes to: no bit is ignored (R86); and the word that the errors of a decoded
host command record is the word that was given (R226, R33). -/
def Obligations.EncodeOfDecodeIsTheIssue : Prop :=
  (∀ (x : Issue) (i : Instr), decode x = .ok i → encode i = x) ∧
    ∀ (w : Word) (i : Instr), decodeWord w = .ok i → hcwOf i = w

/-- R77: the match and mask of each command; and a word that matches no row is rejected (R78). -/
def Obligations.DecoderFollowsMatchAndMask : Prop :=
  ∀ w : Word,
    (w &&& 0xFFFFFFFF#32 = 0x01000000#32 → decodeWord w = .ok .cson) ∧
    (w &&& 0xFFFFFFFF#32 = 0x02000000#32 → decodeWord w = .ok .csoff) ∧
    (w &&& 0xFFFFFF00#32 = 0x03000000#32 → decodeWord w = .ok (.wrbyte (w.extractLsb' 0 8))) ∧
    (w &&& 0xFFFFFFFF#32 = 0x04000000#32 → decodeWord w = .ok .rdbyte) ∧
    (w &&& 0xFF00FF00#32 = 0x10000000#32 → decodeWord w = .ok (.wrreg (w.extractLsb' 16 8) (w.extractLsb' 0 8))) ∧
    (w &&& 0xFF00FFFF#32 = 0x11000000#32 → decodeWord w = .ok (.rdreg (w.extractLsb' 16 8))) ∧
    (w &&& 0xFFFFFFFF#32 = 0x12000000#32 → decodeWord w = .ok .start) ∧
    (w &&& 0xFFFF0000#32 = 0x20000000#32 → decodeWord w = .ok (.bcdenc (w.extractLsb' 0 16))) ∧
    (w &&& 0xFFFFFF00#32 = 0x21000000#32 → decodeWord w = .ok (.bcddec (w.extractLsb' 0 8))) ∧
    (w &&& 0xFF00FFFF#32 = 0x30000000#32 → decodeWord w = .ok (.csrrd (w.extractLsb' 16 8))) ∧
    ((w &&& 0xFFFFFFFF#32) ∉ [0x01000000#32, 0x02000000#32, 0x04000000#32, 0x12000000#32] →
      (w &&& 0xFFFFFF00#32) ∉ [0x03000000#32, 0x21000000#32] → (w &&& 0xFF00FF00#32) ≠ 0x10000000#32 →
      (w &&& 0xFF00FFFF#32) ∉ [0x11000000#32, 0x30000000#32] → (w &&& 0xFFFF0000#32) ≠ 0x20000000#32 →
      ∃ e, decodeWord w = .error e)

/-- Words and bytes written out from the encodings of R71 and R77 decode to what they stand for. -/
def Obligations.SampleEncodingsDecode : Prop :=
  decodeWord 0b00000001000000000000000000000000#32 = .ok .cson ∧
  decodeWord 0b00000011000000000000000010000000#32 = .ok (.wrbyte 0x80#8) ∧
  decodeWord 0b00010000100000000000000000110000#32 = .ok (.wrreg 0x80#8 0x30#8) ∧
  decodeWord 0b00010001100000010000000000000000#32 = .ok (.rdreg 0x81#8) ∧
  decodeWord 0b00100000000000001111111111111111#32 = .ok (.bcdenc 0xFFFF#16) ∧
  decodeWord 0b00100001000000000000000001000111#32 = .ok (.bcddec 0x47#8) ∧
  decodeWord 0b00110000000001000000000000000000#32 = .ok (.csrrd 0x04#8) ∧
  decodeCommandByte 0b10000000#8 = .ok .secW ∧ decodeCommandByte 0b10111110#8 = .ok .burst

/-- R80: every command byte of the table has the marker bit, is put together from its class, index and direction by the
layout of R70, and decodes to its row; every member of WSET is a write and every member of RSET a read. -/
def Obligations.CommandBytesFollowTheLayout : Prop :=
  (∀ (i : Instr) (b : Byte), commandByteOf i = some b →
    commandByteOk b = true ∧ commandByteFrom (classOf b) (indexOf b) (directionOf b) = b ∧ decodeCommandByte b = .ok i) ∧
  (∀ b ∈ wset, directionOf b = .write) ∧ (∀ b ∈ rset, directionOf b = .read ∧ b - 1#8 ∈ wset)

/-! ### A step -/

/-- When what the host issues next decodes to an instruction, a step is exec of it, with the issue taken off the queue;
and with nothing issued the block waits (R8, R22). -/
def Obligations.StepRunsTheDecodedInstruction : Prop :=
  (∀ (s : State) (x : Issue) (q : List Issue) (i : Instr),
    s.pending = x :: q → decode x = .ok i → step s = exec i { s with pending := q }) ∧
  ∀ s : State, s.pending = [] → step s = .next s

/-- R229: while FATAL is 1 a word that is not a legal CSRRD word is answered with PIN_FAULT and changes nothing else, no flag
either (R226, R232); else an illegal word ends with ILLEGAL_COMMAND, and nothing but the bookkeeping changes; and a legal
CSRRD word reaches CSRRD itself, which rejects an unimplemented number, FATAL or not. -/
def Obligations.PrologueChecksFatalThenDecoding : Prop :=
  ∀ (s : State) (w : Word) (q : List Issue), s.pending = .word w :: q →
    (s.flags.fatal = true → w &&& 0xFF00FFFF#32 ≠ 0x30000000#32 →
      step s = .next { s with pending := q }.answeredFatal) ∧
    (s.flags.fatal = false → ∀ e, decodeWord w = .error e →
      step s = .next ({ s with pending := q }.answeredError .illegalCommand w)) ∧
    (w &&& 0xFF00FFFF#32 = 0x30000000#32 →
      step s = exec (.csrrd (w.extractLsb' 16 8)) { s with pending := q } ∧
      (0x04 < (w.extractLsb' 16 8).toNat →
        step s = .next ({ s with pending := q }.answeredError .illegalCommand w)))

/-! ### Refusals -/

/-- R230: a command to which errors apply before its first event reports exactly the first of them, and nothing but that
error's bookkeeping changes (R226, R227); a command refused because FATAL is 1 changes no flag either (R226, R232). That
this holds of the eighteen command bytes, and the word their errors record, is the model's choice
(notes/assumptions/1.md). -/
def Obligations.RefusedCommandOnlyRecordsItsError : Prop :=
  ∀ (i : Instr) (s : State) (e : ErrorCode), refusedWith i s = some e →
    exec i s = .next (if e = .pinFault then s.answeredFatal else s.answeredError e (hcwOf i))

/-- R172: while FATAL is 1, CSRRD of an implemented register answers, and every other command is refused with PIN_FAULT and
changes nothing else, no flag either (R226, R232). -/
def Obligations.FatalBlockAnswersOnlyCsrrd : Prop :=
  ∀ s : State, s.flags.fatal = true →
    (∀ n : Byte, n.toNat ≤ 4 → ∃ v, exec (.csrrd n) s = .next (s.answeredValue v)) ∧
    ∀ i : Instr, (∀ n, i ≠ .csrrd n) → exec i s = .next s.answeredFatal

/-- R171: CSRRD of a number 0x05 to 0xFF is an illegal command. -/
def Obligations.CsrrdOfUnimplementedNumberIsIllegal : Prop :=
  ∀ (n : Byte) (s : State), 0x05 ≤ n.toNat →
    exec (.csrrd n) s = .next (s.answeredError .illegalCommand (hcwOf (.csrrd n))) ∧
    (s.answeredError .illegalCommand (hcwOf (.csrrd n))).flags.eIll = true

/-- R134: WRREG and RDREG refuse a byte outside the enumeration with INVALID_REGISTER before any event. -/
def Obligations.FramerRefusesBytesOutsideTheEnumeration : Prop :=
  ∀ (a d : Byte) (s : State), s.flags.fatal = false → s.pins.ceAsserted = false →
    (a ∉ [0x80#8, 0x82#8, 0x84#8, 0x86#8, 0x88#8, 0x8A#8, 0x8C#8, 0x8E#8, 0x90#8, 0xC0#8] →
      exec (.wrreg a d) s = .next (s.answeredError .invalidRegister (hcwOf (.wrreg a d)))) ∧
    (a ∉ [0x81#8, 0x83#8, 0x85#8, 0x87#8, 0x89#8, 0x8B#8, 0x8D#8] →
      exec (.rdreg a) s = .next (s.answeredError .invalidRegister (hcwOf (.rdreg a))))

/-- R107: no command raises DIRECTION, and none sets E_DIR; and whatever the data pin's direction before a command, each IO
event of the command comes while the pin is OUT and each SMP event while it is IN: the command itself has set it. -/
def Obligations.DirectionErrorIsNeverRaised : Prop :=
  ∀ (i : Instr) (s t : State), exec i s = .next t →
    t.flags.eDir = s.flags.eDir ∧ (∃ r, t.responses = s.responses ++ [r] ∧ r.e ≠ 6#4) ∧
    ∃ evs, t.trace = s.trace ++ evs ∧ ∀ p : Pins, eventsLegal p evs = true

/-! ### Transport -/

/-- CSON in a closed window asserts chip-select and clears the tracker (R104, R111). -/
def Obligations.CsonOpensAWindow : Prop :=
  ∀ s : State, s.flags.fatal = false → s.pins.ceAsserted = false → s.quiet 1 →
    exec .cson s = .next
      ({ s with
        pins := { s.pins with ceAsserted := true }
        win := { len := 0#2, seq := 0#3, first := 0x00#8 }
        trace := s.trace ++ [Event.ce true]
        opCount := s.opCount + 1 }.answeredValue 0#32)

/-- CSOFF in an open window deasserts chip-select, and then reports an invalid shape (R104, R109, R113). -/
def Obligations.CsoffClosesTheWindow : Prop :=
  ∀ s : State, s.flags.fatal = false → s.pins.ceAsserted = true → s.quiet 1 →
    let t := { s with
      pins := { s.pins with ceAsserted := false }
      trace := s.trace ++ [Event.ce false]
      opCount := s.opCount + 1 }
    exec .csoff s =
      .next (if s.win.validShape then t.answeredValue 0#32 else t.answeredError .frameViolation (hcwOf .csoff))

/-- R115: the tracker is not cleared by CSOFF, however it ends. -/
def Obligations.CsoffKeepsTheTracker : Prop :=
  ∀ s t : State, exec .csoff s = .next t → t.win = s.win

/-- R118: a successful WRBYTE emits exactly 25 events, and the peer sees bit d[i] at the i-th rising edge; with the state it
leaves. -/
def Obligations.WrbyteSendsOneByte : Prop :=
  ∀ (d : Byte) (s : State), s.flags.fatal = false → s.pins.ceAsserted = true → s.quiet 25 →
    exec (.wrbyte d) s = .next
      ({ s with
        pins := { s.pins with sclkLvl := false, ioDir := .out, ioOut := d.getLsbD 7 }
        win := s.win.append false d
        trace := s.trace ++ txEvents d
        opCount := s.opCount + 25 }.answeredValue 0#32) ∧
    txEvents d = Event.dir .out ::
      [d.getLsbD 0, d.getLsbD 1, d.getLsbD 2, d.getLsbD 3, d.getLsbD 4, d.getLsbD 5, d.getLsbD 6, d.getLsbD 7].flatMap
        (fun b => [Event.io b, Event.clk true, Event.clk false]) ∧
    (txEvents d).length = 25 ∧
    ∀ l, clockedLevels l (txEvents d) =
      [d.getLsbD 0, d.getLsbD 1, d.getLsbD 2, d.getLsbD 3, d.getLsbD 4, d.getLsbD 5, d.getLsbD 6, d.getLsbD 7]

/-- R121: a successful RDBYTE emits exactly 25 events, each sample before the pulse of its bit, and its value is the byte of
the answers, bit 0 first; with the state it leaves. -/
def Obligations.RdbyteReceivesOneByte : Prop :=
  ∀ s : State, s.flags.fatal = false → s.pins.ceAsserted = true → s.quiet 25 →
    ∃ b : Byte, (∀ k, k < 8 → b.getLsbD k = s.draws.answer (s.smpCount + k)) ∧
      rxEvents s.answeredBits = Event.dir .inp ::
        [b.getLsbD 0, b.getLsbD 1, b.getLsbD 2, b.getLsbD 3, b.getLsbD 4, b.getLsbD 5, b.getLsbD 6, b.getLsbD 7].flatMap
          (fun x => [Event.smp x, Event.clk true, Event.clk false]) ∧
      (rxEvents s.answeredBits).length = 25 ∧
      exec .rdbyte s = .next
        ({ s with
          pins := { s.pins with sclkLvl := false, ioDir := .inp }
          rxbuf := b
          result := b.zeroExtend 32
          win := s.win.append true b
          trace := s.trace ++ rxEvents s.answeredBits
          opCount := s.opCount + 25
          smpCount := s.smpCount + 8 }.answeredValue (b.zeroExtend 32))

/-- The eighteen command bytes: each is sent as one byte of the open window (R71, R82, R117); that a command byte by itself
is a WRBYTE of it is the model's choice (notes/assumptions/1.md). -/
def Obligations.CommandByteIsSent : Prop :=
  ∀ (i : Instr) (b : Byte) (s : State), commandByteOf i = some b → s.flags.fatal = false → s.pins.ceAsserted = true →
    s.quiet 25 →
    exec i s = .next
      ({ s with
        pins := { s.pins with sclkLvl := false, ioDir := .out, ioOut := true }
        win := s.win.append false b
        trace := s.trace ++ txEvents b
        opCount := s.opCount + 25 }.answeredValue 0#32)

/-- R108: win_append. -/
def Obligations.TrackerAppendsOneByte : Prop :=
  ∀ (w : Window) (received : Bool) (b : Byte),
    ((w.append received b).first = if w.len = 0#2 ∧ received = false then b else w.first) ∧
    (w.len.toNat < 3 →
      (w.append received b).len.toNat = w.len.toNat + 1 ∧
      (w.append received b).seq.getLsbD w.len.toNat = received ∧
      ∀ k, k ≠ w.len.toNat → (w.append received b).seq.getLsbD k = w.seq.getLsbD k) ∧
    (w.len.toNat = 3 → (w.append received b).len = w.len ∧ (w.append received b).seq = w.seq)

/-- R109: the three valid shapes, and no other. -/
def Obligations.ValidShapesAreTheThree : Prop :=
  ∀ w : Window, w.validShape = true ↔
    ((w.len = 2#2 ∧ w.seq = 0b000#3 ∧ w.first.getLsbD 0 = false) ∨
      (w.len = 2#2 ∧ w.seq = 0b010#3 ∧ w.first.getLsbD 0 = true) ∨
      (w.len = 1#2 ∧ w.seq = 0b000#3 ∧ w.first = 0xBE#8))

/-! ### Framer -/

/-- R131: a successful WRREG emits exactly 52 events, and on the wire the peer receives the command byte and then the data
byte on 16 rising edges; with the state it leaves. -/
def Obligations.WrregWritesOneRegister : Prop :=
  ∀ (a d : Byte) (s : State), s.flags.fatal = false → s.pins.ceAsserted = false →
    a ∈ [0x80#8, 0x82#8, 0x84#8, 0x86#8, 0x88#8, 0x8A#8, 0x8C#8, 0x8E#8, 0x90#8, 0xC0#8] → s.quiet 52 →
    exec (.wrreg a d) s = .next
      ({ s with
        pins := { sclkLvl := false, ceAsserted := false, ioDir := .out, ioOut := d.getLsbD 7 }
        win := { len := 2#2, seq := 0b000#3, first := a }
        trace := s.trace ++ Event.ce true :: (txEvents a ++ (txEvents d ++ [Event.ce false]))
        opCount := s.opCount + 52 }.answeredValue 0#32) ∧
    (Event.ce true :: (txEvents a ++ (txEvents d ++ [Event.ce false]))).length = 52 ∧
    ∀ l, clockedLevels l (Event.ce true :: (txEvents a ++ (txEvents d ++ [Event.ce false]))) =
      [a.getLsbD 0, a.getLsbD 1, a.getLsbD 2, a.getLsbD 3, a.getLsbD 4, a.getLsbD 5, a.getLsbD 6, a.getLsbD 7,
        d.getLsbD 0, d.getLsbD 1, d.getLsbD 2, d.getLsbD 3, d.getLsbD 4, d.getLsbD 5, d.getLsbD 6, d.getLsbD 7]

/-- RDREG reads one register (R136): RXBUF holds the raw byte and RESULT the decoded value `tens*10 + units`; 52 events
(R137). -/
def Obligations.RdregReadsOneRegister : Prop :=
  ∀ (a : Byte) (s : State), s.flags.fatal = false → s.pins.ceAsserted = false →
    a ∈ [0x81#8, 0x83#8, 0x85#8, 0x87#8, 0x89#8, 0x8B#8, 0x8D#8] → s.quiet 52 →
    ∃ (raw : Byte) (val : Word), (∀ k, k < 8 → raw.getLsbD k = s.draws.answer (s.smpCount + k)) ∧
      val.toNat = raw.toNat / 16 * 10 + raw.toNat % 16 ∧
      exec (.rdreg a) s = .next
        ({ s with
          pins := { sclkLvl := false, ceAsserted := false, ioDir := .inp, ioOut := true }
          rxbuf := raw
          result := val
          win := { len := 2#2, seq := 0b010#3, first := a }
          trace := s.trace ++ Event.ce true :: (txEvents a ++ (rxEvents s.answeredBits ++ [Event.ce false]))
          opCount := s.opCount + 52
          smpCount := s.smpCount + 8 }.answeredValue val) ∧
      (Event.ce true :: (txEvents a ++ (rxEvents s.answeredBits ++ [Event.ce false]))).length = 52

/-- The raw sequences RAWWR and RAWRD (R85) emit the same pin events as the framed commands and leave the same pins and
tracker; RAWRD leaves the raw byte in RESULT where RDREG leaves the decoded value. -/
def Obligations.RawSequencesEmitTheFramedEvents : Prop :=
  (∀ (a d : Byte) (s : State), s.flags.fatal = false → s.pins.ceAsserted = false → a ∈ wset → s.quiet 52 →
    ∃ t1 t2 t3 t4 u, exec .cson s = .next t1 ∧ exec (.wrbyte a) t1 = .next t2 ∧ exec (.wrbyte d) t2 = .next t3 ∧
      exec .csoff t3 = .next t4 ∧ exec (.wrreg a d) s = .next u ∧
      t4.trace = u.trace ∧ t4.pins = u.pins ∧ t4.win = u.win ∧ t4.flags = u.flags ∧ t4.result = u.result ∧
      t4.rxbuf = u.rxbuf) ∧
  ∀ (a : Byte) (s : State), s.flags.fatal = false → s.pins.ceAsserted = false → a ∈ rset → s.quiet 52 →
    ∃ t1 t2 t3 t4 u, exec .cson s = .next t1 ∧ exec (.wrbyte a) t1 = .next t2 ∧ exec .rdbyte t2 = .next t3 ∧
      exec .csoff t3 = .next t4 ∧ exec (.rdreg a) s = .next u ∧
      t4.trace = u.trace ∧ t4.pins = u.pins ∧ t4.win = u.win ∧ t4.flags = u.flags ∧ t4.rxbuf = u.rxbuf ∧
      t4.result.toNat = t4.rxbuf.toNat ∧ u.result.toNat = u.rxbuf.toNat / 16 * 10 + u.rxbuf.toNat % 16

/-- START sends the burst command byte alone (R141): 27 events, with the levels 0,1,1,1,1,1,0,1 at the rising edges. -/
def Obligations.StartSendsTheBurstByte : Prop :=
  ∀ s : State, s.flags.fatal = false → s.pins.ceAsserted = false → s.quiet 27 →
    exec .start s = .next
      ({ s with
        pins := { sclkLvl := false, ceAsserted := false, ioDir := .out, ioOut := true }
        win := { len := 1#2, seq := 0b000#3, first := 0xBE#8 }
        trace := s.trace ++ Event.ce true :: Event.dir .out ::
          ([false, true, true, true, true, true, false, true].flatMap
              (fun b => [Event.io b, Event.clk true, Event.clk false]) ++ [Event.ce false])
        opCount := s.opCount + 27 }.answeredValue 0#32)

/-- R132: framed commands never raise error 7, and every window one makes has a valid shape. -/
def Obligations.FramedCommandsMakeValidWindows : Prop :=
  ∀ (i : Instr) (s t : State), (i = .start ∨ (∃ a d, i = .wrreg a d) ∨ ∃ a, i = .rdreg a) → exec i s = .next t →
    ∃ r, t.responses = s.responses ++ [r] ∧ r.e ≠ 7#4 ∧
      (r.e = 0#4 → t.win.validShape = true ∧
        (∀ a d, i = .wrreg a d → t.win = { len := 2#2, seq := 0b000#3, first := a } ∧ a.getLsbD 0 = false) ∧
        (∀ a, i = .rdreg a → t.win = { len := 2#2, seq := 0b010#3, first := a } ∧ a.getLsbD 0 = true) ∧
        (i = .start → t.win = { len := 1#2, seq := 0b000#3, first := 0xBE#8 }))

/-! ### BCD -/

/-- BCDENC (R150): 0..99 gives the packed BCD byte in RESULT and in the response; every other integer is refused, and
RESULT keeps its value. -/
def Obligations.BcdencEncodesOrRefuses : Prop :=
  ∀ (v : BitVec 16) (s : State), s.flags.fatal = false →
    (0 ≤ v.toInt ∧ v.toInt ≤ 99 →
      ∃ r : Word, (r.toNat : Int) = v.toInt / 10 * 16 + v.toInt % 10 ∧
        exec (.bcdenc v) s = .next ({ s with result := r }.answeredValue r)) ∧
    (v.toInt < 0 ∨ 99 < v.toInt →
      exec (.bcdenc v) s = .next (s.answeredError .invalidArgument (hcwOf (.bcdenc v))))

/-- R153: BCDDEC decodes any byte as `tens*10 + units`, unchecked (R154). -/
def Obligations.BcddecDecodesEveryByte : Prop :=
  ∀ (d : Byte) (s : State), s.flags.fatal = false →
    ∃ r : Word, r.toNat = d.toNat / 16 * 10 + d.toNat % 16 ∧
      exec (.bcddec d) s = .next ({ s with result := r }.answeredValue r)

/-- R155: decoding what BCDENC gives for 0..99 gives the integer back, and its decimal string; the other direction does not
hold. -/
def Obligations.BcdRoundTrip : Prop :=
  (∀ (v : BitVec 16) (s t : State), s.flags.fatal = false → 0 ≤ v.toInt → v.toInt ≤ 99 → exec (.bcdenc v) s = .next t →
    ((bcdValue (t.result.setWidth 8)).toNat : Int) = v.toInt ∧
    dec (bcdValue (t.result.setWidth 8)).toNat = dec v.toInt.toNat) ∧
  (bcdValue 0x1A#8 = 20#8 ∧
    ∀ s t : State, s.flags.fatal = false → exec (.bcdenc 20#16) s = .next t → t.result = 0x20#32)

/-! ### Block registers -/

/-- CSRRD n answers the register's value and writes nothing, RESULT included, FATAL or not (R170, R172, R29 to R33). -/
def Obligations.CsrrdReadsTheBlockRegisters : Prop :=
  ∀ (n : Byte) (s : State), n.toNat ≤ 4 →
    exec (.csrrd n) s = .next (s.answeredValue
      (if n = 0x00#8 then BitVec.ofNat 32 (statusNumber s)
       else if n = 0x01#8 then BitVec.ofNat 32 s.rxbuf.toNat
       else if n = 0x02#8 then s.result
       else if n = 0x03#8 then BitVec.ofNat 32 (winNumber s)
       else s.flags.firstErr))

/-! ### Frames -/

/-- What no command changes, and what every command changes in one way: the parameters, the draws and what the host issues
next stay; HOST_PC advances by exactly 1 with one response (R22); the trace grows by the command's events, and the pins
are what those events make of them (R14). -/
def Obligations.EveryCommandFrame : Prop :=
  ∀ (i : Instr) (s t : State), exec i s = .next t →
    t.params = s.params ∧ t.draws = s.draws ∧ t.pending = s.pending ∧ t.hostPc = s.hostPc + 1 ∧
    (∃ r, t.responses = s.responses ++ [r]) ∧
    ∃ evs, t.trace = s.trace ++ evs ∧ t.pins = evs.foldl Event.onPins s.pins

/-- R220, R226, R35: every command ends in a next state, and either with success, when no flag has changed, or with one
error, when exactly that error's bookkeeping has changed the flags, and RESULT and RXBUF are unchanged; a command refused
because FATAL is 1 already has changed no flag (R226, R232). -/
def Obligations.EveryCommandSucceedsOrRecordsOneError : Prop :=
  ∀ (i : Instr) (s : State), ∃ t, exec i s = .next t ∧
    ((∃ v, t.responses = s.responses ++ [{ e := 0#4, val := v }] ∧ t.flags = s.flags) ∨
      ∃ e : ErrorCode, t.responses = s.responses ++ [{ e := e.num, val := 0#32 }] ∧
        t.flags = (if e = .pinFault ∧ s.flags.fatal = true then s.flags else s.flags.note e (hcwOf i)) ∧
        t.result = s.result ∧ t.rxbuf = s.rxbuf)

/-- BCDENC, BCDDEC and CSRRD touch no pin, emit nothing, take no draw, and change neither RXBUF nor the tracker; CSRRD not
RESULT either (R65, R41). -/
def Obligations.CodecAndCsrrdFrame : Prop :=
  ∀ (i : Instr) (s t : State), ((∃ v, i = .bcdenc v) ∨ (∃ d, i = .bcddec d) ∨ ∃ n, i = .csrrd n) → exec i s = .next t →
    t.pins = s.pins ∧ t.trace = s.trace ∧ t.rxbuf = s.rxbuf ∧ t.win = s.win ∧ t.opCount = s.opCount ∧
    t.smpCount = s.smpCount ∧ ((∃ n, i = .csrrd n) → t.result = s.result)

/-- CSON, CSOFF, WRBYTE, WRREG and START write neither RESULT nor RXBUF, and take no sample, however they end (R41); the
eighteen command bytes neither, which rests on the model's choice that such a row is a WRBYTE of its byte
(notes/assumptions/1.md). -/
def Obligations.SendingCommandsFrame : Prop :=
  ∀ (i : Instr) (s t : State),
    (i = .cson ∨ i = .csoff ∨ (∃ d, i = .wrbyte d) ∨ (∃ a d, i = .wrreg a d) ∨ i = .start ∨ (commandByteOf i).isSome) →
    exec i s = .next t →
    t.result = s.result ∧ t.rxbuf = s.rxbuf ∧ t.smpCount = s.smpCount

/-- RDBYTE keeps IO_OUT (R27) and chip-select; CSON and CSOFF keep the clock, the data pin's direction and its level; WRBYTE
keeps chip-select (R117), and so do the eighteen command bytes, which rests on the model's choice that such a row is a
WRBYTE of its byte (notes/assumptions/1.md); however they end. -/
def Obligations.TransportPinFrame : Prop :=
  (∀ s t : State, exec .rdbyte s = .next t →
    t.pins.ioOut = s.pins.ioOut ∧ t.pins.ceAsserted = s.pins.ceAsserted) ∧
  (∀ (i : Instr) (s t : State), (i = .cson ∨ i = .csoff) → exec i s = .next t →
    t.pins.sclkLvl = s.pins.sclkLvl ∧ t.pins.ioDir = s.pins.ioDir ∧ t.pins.ioOut = s.pins.ioOut) ∧
  ∀ (i : Instr) (s t : State), ((∃ d, i = .wrbyte d) ∨ (commandByteOf i).isSome) → exec i s = .next t →
    t.pins.ceAsserted = s.pins.ceAsserted

/-- Sticky bits, FEV and FATAL are cleared by no command, and FIRSTERR keeps the first error's word (R226, R233). -/
def Obligations.StickyBitsAreNeverCleared : Prop :=
  ∀ (i : Instr) (s t : State), exec i s = .next t →
    (s.flags.eIll = true → t.flags.eIll = true) ∧ (s.flags.eArg = true → t.flags.eArg = true) ∧
    (s.flags.eReg = true → t.flags.eReg = true) ∧ (s.flags.eWin = true → t.flags.eWin = true) ∧
    (s.flags.eDir = true → t.flags.eDir = true) ∧ (s.flags.eFrame = true → t.flags.eFrame = true) ∧
    (s.flags.fatal = true → t.flags.fatal = true) ∧
    (s.flags.fev = true → t.flags.fev = true ∧ t.flags.firstErr = s.flags.firstErr) ∧
    (s.flags.fev = false → t.flags.fev = true → t.flags.firstErr = hcwOf i)

/-! ### Events and pin faults -/

/-- A command that no check refuses, and of whose pin operations none fails, emits exactly its events (R118, R121, R131,
R137, R141), and does not end with a pin fault; that the command bytes do as WRBYTE is the model's choice
(notes/assumptions/1.md). -/
def Obligations.CompletedCommandEmitsItsEvents : Prop :=
  ∀ (i : Instr) (s : State), refusedWith i s = none → s.quiet (commandEvents i s).length →
    ∃ t, exec i s = .next t ∧ t.trace = s.trace ++ commandEvents i s ∧
      t.pins = (commandEvents i s).foldl Event.onPins s.pins ∧ t.opCount = s.opCount + (commandEvents i s).length ∧
      t.flags.fatal = s.flags.fatal ∧ ∃ r, t.responses = s.responses ++ [r] ∧ (r.e = 0#4 ∨ (i = .csoff ∧ r.e = 7#4))

/-- R232: when one of a command's pin operations is the first to fail, the events before it stand, the pins keep what they
made of them, the command ends with PIN_FAULT and its bookkeeping, and RESULT and RXBUF are not written. That the last
operation of RDREG, CE(0), leaves them too although its byte is complete is the model's inference from R226 and from the
order of R136 (notes/assumptions/17.md); that the command bytes do as WRBYTE is its choice (notes/assumptions/1.md). -/
def Obligations.PinFaultKeepsTheEventsBeforeIt : Prop :=
  ∀ (i : Instr) (s : State) (k : Nat), refusedWith i s = none → k < (commandEvents i s).length → s.firstFailsAt k →
    ∃ t, exec i s = .next t ∧ t.trace = s.trace ++ (commandEvents i s).take k ∧
      t.pins = ((commandEvents i s).take k).foldl Event.onPins s.pins ∧ t.opCount = s.opCount + (k + 1) ∧
      t.flags = s.flags.note .pinFault (hcwOf i) ∧ t.flags.fatal = true ∧
      t.responses = s.responses ++ [{ e := 15#4, val := 0#32 }] ∧ t.result = s.result ∧ t.rxbuf = s.rxbuf

/-- A byte cut short by a pin fault is not in the tracker, and a byte completed before it is (R108, R232); a command whose one
event or one byte is cut short leaves the tracker as it was. Of the eighteen command bytes this rests on the model's choice
that such a row is a WRBYTE of its byte (notes/assumptions/1.md). -/
def Obligations.TrackerHoldsOnlyCompletedBytes : Prop :=
  (∀ (a d : Byte) (s t : State) (k : Nat), refusedWith (.wrreg a d) s = none → k < 52 → s.firstFailsAt k →
    exec (.wrreg a d) s = .next t →
    t.win = if k = 0 then s.win else if k < 26 then { len := 0#2, seq := 0#3, first := 0#8 }
      else if k < 51 then { len := 1#2, seq := 0#3, first := a } else { len := 2#2, seq := 0#3, first := a }) ∧
  (∀ (a : Byte) (s t : State) (k : Nat), refusedWith (.rdreg a) s = none → k < 52 → s.firstFailsAt k →
    exec (.rdreg a) s = .next t →
    t.win = if k = 0 then s.win else if k < 26 then { len := 0#2, seq := 0#3, first := 0#8 }
      else if k < 51 then { len := 1#2, seq := 0#3, first := a } else { len := 2#2, seq := 0b010#3, first := a }) ∧
  (∀ (s t : State) (k : Nat), refusedWith .start s = none → k < 27 → s.firstFailsAt k → exec .start s = .next t →
    t.win = if k = 0 then s.win else if k < 26 then { len := 0#2, seq := 0#3, first := 0#8 }
      else { len := 1#2, seq := 0#3, first := 0xBE#8 }) ∧
  ∀ (i : Instr) (s t : State) (k : Nat),
    (i = .cson ∨ i = .csoff ∨ i = .rdbyte ∨ (∃ d, i = .wrbyte d) ∨ (commandByteOf i).isSome) → refusedWith i s = none →
    k < (commandEvents i s).length → s.firstFailsAt k → exec i s = .next t → t.win = s.win

/-- With PIN_FAULTS false no command of a block that is not fatal ends with PIN_FAULT (R10, R105, R232). -/
def Obligations.NoPinFaultWithoutTheParameter : Prop :=
  ∀ (i : Instr) (s t : State), s.params.pinFaults = false → s.flags.fatal = false → exec i s = .next t →
    t.flags.fatal = false ∧ ∃ r, t.responses = s.responses ++ [r] ∧ r.e ≠ 15#4

/-! ### Invariants -/

/-- Every step keeps: the pins are what the trace has made of the reset levels, with IO events only while OUT and SMP events
only while IN (R14, R24 to R28, R42). -/
def Obligations.StepKeepsPinsFollowingTrace : Prop :=
  ∀ s t : State, s.PinsFollowTrace → step s = .next t → t.PinsFollowTrace

/-- Every step keeps: the clock line is low unless the block is fatal (R24), and every pin operation attempted has its
event, but for one that failed (R105, R232). -/
def Obligations.StepKeepsClockIdle : Prop :=
  ∀ s t : State, s.ClockIdle → step s = .next t → t.ClockIdle

/-- Every step keeps: E_DIR is 0 (R107), FEV tells whether an error was recorded (R226), FIRSTERR is 0 before (R33). -/
def Obligations.StepKeepsFlagsConsistent : Prop :=
  ∀ s t : State, s.FlagsConsistent → step s = .next t → t.FlagsConsistent

/-- Every step keeps: the tracker marks only bytes of the window (R108). -/
def Obligations.StepKeepsTrackerConsistent : Prop :=
  ∀ s t : State, s.TrackerConsistent → step s = .next t → t.TrackerConsistent

/-- Every step keeps: one response for each command, 0 as its value on an error, and a code in use (R22, R220). -/
def Obligations.StepKeepsResponsesConsistent : Prop :=
  ∀ s t : State, s.ResponsesConsistent → step s = .next t → t.ResponsesConsistent

/-- The invariants hold at reset, whatever the parameters. -/
def Obligations.ResetMeetsTheInvariants : Prop :=
  ∀ p : Params, (State.construct p).PinsFollowTrace ∧ (State.construct p).ClockIdle ∧
    (State.construct p).FlagsConsistent ∧ (State.construct p).TrackerConsistent ∧
    (State.construct p).ResponsesConsistent

/-- R11: no step rebinds the pins or changes another parameter. -/
def Obligations.StepNeverRebindsThePins : Prop :=
  ∀ s t : State, step s = .next t → t.params = s.params

/-! ### What cannot influence what -/

/-- The peer's answers reach only what was read: two runs of a command that differ in the answers alone have the same pins,
tracker, flags and error code, and the same events but for the sampled bits (R103, R28, R135); and two runs of a command
other than RDBYTE and RDREG end in the same state, RESULT, RXBUF, responses and trace with it, but for the answers they
were given. -/
def Obligations.PeerReachesOnlyWhatIsRead : Prop :=
  ∀ (i : Instr) (s t : State) (l : List Bool), exec i s = .next t →
    ∃ u, exec i { s with draws := { s.draws with answers := l } } = .next u ∧
      u.pins = t.pins ∧ u.win = t.win ∧ u.flags = t.flags ∧ u.opCount = t.opCount ∧ u.smpCount = t.smpCount ∧
      u.trace.map Event.shape = t.trace.map Event.shape ∧
      u.responses.map Response.e = t.responses.map Response.e ∧
      (i ≠ .rdbyte → (∀ a, i ≠ .rdreg a) → u = { t with draws := { t.draws with answers := l } })

/-- The sticky bits and the first-error record change nothing that a command but CSRRD computes (R35): only FATAL does. -/
def Obligations.StickyBitsChangeNoResult : Prop :=
  ∀ (i : Instr) (s t : State) (f : Flags), (∀ n, i ≠ .csrrd n) → f.fatal = s.flags.fatal → exec i s = .next t →
    ∃ g, exec i { s with flags := f } = .next { t with flags := g }

/-! ### The reference peer (informative, R254): claims that name it as a premise -/

/-- A read from a reference peer that answers the samples, is not desynchronized, and no pin operation failing, gives the
peer's register, decoded (R251, R136). -/
def Obligations.ReferencePeerAnswersARead : Prop :=
  ∀ (d : PeerDraws) (p : RefPeer) (a : Byte) (s t : State), s.flags.fatal = false → s.pins.ceAsserted = false →
    a ∈ rset → s.quiet 52 → exec (.rdreg a) s = .next t → p.desync = false →
    p.agrees d (t.trace.drop s.trace.length) = true →
    t.rxbuf = (p.ticked d).reg (classOf a) (indexOf a) ∧
    t.result = (bcdValue ((p.ticked d).reg (classOf a) (indexOf a))).zeroExtend 32 ∧
    (p.observeAll d (t.trace.drop s.trace.length)).desync = false

/-- A write window to a reference peer that is not desynchronized sets the addressed register, unless the armed gate
ignores it, and no other (R247, R248). -/
def Obligations.ReferencePeerTakesAWrite : Prop :=
  ∀ (d : PeerDraws) (p : RefPeer) (a x : Byte), p.desync = false → a ∈ wset →
    ∀ (c : PeerClass) (i : BitVec 5),
      (p.observeAll d (.ce true :: (txEvents a ++ (txEvents x ++ [Event.ce false])))).reg c i =
        if c = classOf a ∧ i = indexOf a ∧
            ¬((p.ticked d).armed = true ∧
              ((c = .clock ∧ i.toNat < 7) ∨ (¬(c = .clock ∧ i.toNat ≤ 7) ∧ d.gatesOther (p.windows + 1) c i = true)))
        then x else (p.ticked d).reg c i

/-! ### The host's façade -/

/-- A per-field write (R182, R183, R184, R186) of 0..99, or of a year of 4 digits by its low two: four commands, and three
windows with the write-protect cleared, the BCD byte `b` written to the field's write byte `a`, and write-protect armed
again. For seconds of 80..99 the byte has bit 7 = 1, as R150, R183 and R185 give, against R198 and R273: that clause is the
model's choice (notes/assumptions/20.md). -/
def Obligations.FieldWriteMakesThreeTransactions : Prop :=
  ∀ (f : Field) (a : Byte) (v w : Int) (s : State),
    ((f, a) ∈ [(Field.seconds, 0x80#8), (.minutes, 0x82#8), (.hours, 0x84#8), (.day, 0x86#8), (.month, 0x88#8),
        (.weekday, 0x8A#8)] ∧ 0 ≤ v ∧ v ≤ 99 ∧ w = v) ∨
      (f = .year ∧ a = 0x8C#8 ∧ 1000 ≤ v ∧ v ≤ 9999 ∧ w = v % 100) →
    s.flags.fatal = false → s.pins.ceAsserted = false → s.quiet 156 →
    ∃ (b : Byte) (t : State), (b.toNat : Int) = w / 10 * 16 + w % 10 ∧ writeField f v s = .ok () t ∧
      t.trace = s.trace ++ (writeEvents 0x8E#8 0x00#8 ++ (writeEvents a b ++ writeEvents 0x8E#8 0x80#8)) ∧
      t.hostPc = s.hostPc + 4 ∧ t.flags = s.flags ∧ t.pending = s.pending ∧ t.rxbuf = s.rxbuf ∧
      t.result.toNat = b.toNat

/-- A per-field write of an integer outside 0..99 fails with error 2 before any window is opened (R184). -/
def Obligations.OutOfRangeFieldWriteEmitsNothing : Prop :=
  ∀ (f : Field) (v : Int) (s : State), f ≠ .year → -32768 ≤ v → v ≤ 32767 → (v < 0 ∨ 99 < v) → s.flags.fatal = false →
    ∃ t, writeField f v s = .failed 2#4 t ∧ t.trace = s.trace ∧ t.pins = s.pins ∧ t.hostPc = s.hostPc + 1

/-- R186: writeYear refuses a year that is not of 4 digits before any command, and writes the low two digits of the
others. -/
def Obligations.WriteYearTakesTheLowTwoDigits : Prop :=
  ∀ (y : Int) (s : State),
    ((y < 1000 ∨ 9999 < y) → writeYear y s = .failed 2#4 s) ∧
    (1000 ≤ y → y ≤ 9999 → writeYear y s = writeCoded 0x8C#8 (y % 100) s)

/-- A per-field read is one RDREG of the field's read byte `a`, whose value the host formats (R182, R187, R188). -/
def Obligations.FieldReadFormatsTheRegister : Prop :=
  ∀ (f : Field) (a : Byte) (s : State),
    (f, a) ∈ [(Field.seconds, 0x81#8), (.minutes, 0x83#8), (.hours, 0x85#8), (.day, 0x87#8), (.month, 0x89#8),
      (.weekday, 0x8B#8), (.year, 0x8D#8)] →
    s.flags.fatal = false → s.pins.ceAsserted = false → s.quiet 52 →
    ∃ t, readField f s = .ok
        ((if f = .year then ['2', '0'] else []) ++ dec (s.answeredByte.toNat / 16 * 10 + s.answeredByte.toNat % 16)) t ∧
      t.trace = s.trace ++ readEvents a s.answeredBits ∧ t.hostPc = s.hostPc + 1 ∧ t.rxbuf = s.answeredByte

/-- getDate (R189): seven reads in the order day, month, year, hours, minutes, seconds, weekday, seven windows of 52 events
each (R276), and seven commands; and the text it returns, each field the unpadded decimal string of its BCD-decoded answers,
the year's with "20" before it. -/
def Obligations.GetDateReadsSevenFieldsInOrder : Prop :=
  ∀ s : State, s.flags.fatal = false → s.pins.ceAsserted = false → s.quiet 364 →
    let text (n : Nat) : List Char :=
      dec ((s.answeredByteAt n).toNat / 16 * 10 + (s.answeredByteAt n).toNat % 16)
    ∃ t : State,
      getDate s = .ok
        ("Date: ".toList ++ text 0 ++ ".".toList ++ text 8 ++ ".20".toList ++ text 16 ++ ", ".toList ++ text 24 ++
          ":".toList ++ text 32 ++ ":".toList ++ text 40 ++ ", Day: ".toList ++ text 48) t ∧
      t.hostPc = s.hostPc + 7 ∧ t.smpCount = s.smpCount + 56 ∧ t.trace.length = s.trace.length + 364 ∧
      t.trace = s.trace ++
        ([(0x87#8, 0), (0x89#8, 8), (0x8D#8, 16), (0x85#8, 24), (0x83#8, 32), (0x81#8, 40), (0x8B#8, 48)] :
            List (Byte × Nat)).flatMap fun r => readEvents r.1 (s.answeredBitsAt r.2)

/-- setDate (R191, R182, R186): the fields whose guards hold are written, in the order day, month, year, hours, minutes,
seconds, weekday, each by its three windows and four commands; and the others are skipped. -/
def Obligations.SetDateWritesEachGuardedFieldInOrder : Prop :=
  ∀ (day month year hour minute second weekday : Int) (s : State), (0 < year → 1000 ≤ year ∧ year ≤ 9999) →
    s.flags.fatal = false → s.pins.ceAsserted = false → s.quiet 1092 →
    let writes : List (Byte × Int) :=
      (if 0 < day ∧ day < 32 then [(0x86#8, day)] else []) ++
        (if 0 < month ∧ month < 13 then [(0x88#8, month)] else []) ++
        (if 0 < year then [(0x8C#8, year % 100)] else []) ++
        (if -1 < hour ∧ hour < 23 then [(0x84#8, hour)] else []) ++
        (if -1 < minute ∧ minute < 60 then [(0x82#8, minute)] else []) ++
        (if -1 < second ∧ second < 60 then [(0x80#8, second)] else []) ++
        (if 0 < weekday ∧ weekday < 8 then [(0x8A#8, weekday)] else [])
    ∃ t : State, setDate day month year hour minute second weekday s = .ok () t ∧
      t.trace = s.trace ++ writes.flatMap (fun w => fieldWriteEvents w.1 w.2) ∧
      t.hostPc = s.hostPc + 4 * writes.length ∧ t.flags = s.flags

/-- setDate stops at the first error (R191, R193, R180): at a year above 0 that is not of 4 digits it ends with error 2,
with the day and the month written before it and nothing after it; and at a pin fault it ends with error 15, with exactly
the events before the failing operation. -/
def Obligations.SetDateStopsAtTheFirstError : Prop :=
  ∀ (day month year hour minute second weekday : Int) (s : State), s.flags.fatal = false →
    s.pins.ceAsserted = false →
    let before : List (Byte × Int) :=
      (if 0 < day ∧ day < 32 then [(0x86#8, day)] else []) ++
        (if 0 < month ∧ month < 13 then [(0x88#8, month)] else [])
    let writes : List (Byte × Int) :=
      if 0 < year ∧ (year < 1000 ∨ 9999 < year) then before
      else
        before ++ (if 0 < year then [(0x8C#8, year % 100)] else []) ++
          (if -1 < hour ∧ hour < 23 then [(0x84#8, hour)] else []) ++
          (if -1 < minute ∧ minute < 60 then [(0x82#8, minute)] else []) ++
          (if -1 < second ∧ second < 60 then [(0x80#8, second)] else []) ++
          (if 0 < weekday ∧ weekday < 8 then [(0x8A#8, weekday)] else [])
    let events := writes.flatMap fun w => fieldWriteEvents w.1 w.2
    (0 < year ∧ (year < 1000 ∨ 9999 < year) → s.quiet events.length →
      ∃ t : State, setDate day month year hour minute second weekday s = .failed 2#4 t ∧
        t.trace = s.trace ++ events ∧ t.hostPc = s.hostPc + 4 * writes.length ∧ t.flags = s.flags) ∧
    ∀ k, k < events.length → s.firstFailsAt k →
      ∃ t : State, setDate day month year hour minute second weekday s = .failed 15#4 t ∧
        t.trace = s.trace ++ events.take k ∧ t.flags.fatal = true

/-- A field whose guard fails is skipped: nothing is issued; and the guards are those of R182. -/
def Obligations.FailingGuardIssuesNothing : Prop :=
  (∀ (f : Field) (v : Int) (s : State), f.guard v = false → writeGuarded f v s = .ok () s) ∧
  ∀ v : Int,
    (Field.guard .seconds v = true ↔ 0 ≤ v ∧ v ≤ 59) ∧ (Field.guard .minutes v = true ↔ 0 ≤ v ∧ v ≤ 59) ∧
    (Field.guard .hours v = true ↔ 0 ≤ v ∧ v ≤ 22) ∧ (Field.guard .day v = true ↔ 1 ≤ v ∧ v ≤ 31) ∧
    (Field.guard .month v = true ↔ 1 ≤ v ∧ v ≤ 12) ∧ (Field.guard .weekday v = true ↔ 1 ≤ v ∧ v ≤ 7) ∧
    (Field.guard .year v = true ↔ 1 ≤ v)

/-- R156: dec(n) is the digits of n in base 10, with no leading zero; dec(0) is "0". -/
def Obligations.DecimalStringIsUnpadded : Prop :=
  (∀ n : Nat, decValue (dec n) = n ∧ ∀ c ∈ dec n, 48 ≤ c.toNat ∧ c.toNat ≤ 57) ∧
    (∀ n : Nat, n ≠ 0 → (dec n).head? ≠ some '0') ∧ dec 0 = ['0']
end

