-- ==== Sys2Proof/Laws/State.lean ====
section
/-! SUPPORT. One lemma per field and update of State, each true by rfl, so that no later proof unfolds a record update. -/

namespace Sys2Proof.Laws

open Sys2Proof.Machine

/-! ### countOp -/

@[simp] theorem countOp_params (s : State) : (s.countOp).params = s.params := rfl
@[simp] theorem countOp_pins (s : State) : (s.countOp).pins = s.pins := rfl
@[simp] theorem countOp_rxbuf (s : State) : (s.countOp).rxbuf = s.rxbuf := rfl
@[simp] theorem countOp_result (s : State) : (s.countOp).result = s.result := rfl
@[simp] theorem countOp_win (s : State) : (s.countOp).win = s.win := rfl
@[simp] theorem countOp_flags (s : State) : (s.countOp).flags = s.flags := rfl
@[simp] theorem countOp_hostPc (s : State) : (s.countOp).hostPc = s.hostPc := rfl
@[simp] theorem countOp_pending (s : State) : (s.countOp).pending = s.pending := rfl
@[simp] theorem countOp_responses (s : State) : (s.countOp).responses = s.responses := rfl
@[simp] theorem countOp_trace (s : State) : (s.countOp).trace = s.trace := rfl
@[simp] theorem countOp_draws (s : State) : (s.countOp).draws = s.draws := rfl
@[simp] theorem countOp_opCount (s : State) : (s.countOp).opCount = s.opCount + 1 := rfl
@[simp] theorem countOp_smpCount (s : State) : (s.countOp).smpCount = s.smpCount := rfl

/-! ### countSample -/

@[simp] theorem countSample_params (s : State) : (s.countSample).params = s.params := rfl
@[simp] theorem countSample_pins (s : State) : (s.countSample).pins = s.pins := rfl
@[simp] theorem countSample_rxbuf (s : State) : (s.countSample).rxbuf = s.rxbuf := rfl
@[simp] theorem countSample_result (s : State) : (s.countSample).result = s.result := rfl
@[simp] theorem countSample_win (s : State) : (s.countSample).win = s.win := rfl
@[simp] theorem countSample_flags (s : State) : (s.countSample).flags = s.flags := rfl
@[simp] theorem countSample_hostPc (s : State) : (s.countSample).hostPc = s.hostPc := rfl
@[simp] theorem countSample_pending (s : State) : (s.countSample).pending = s.pending := rfl
@[simp] theorem countSample_responses (s : State) : (s.countSample).responses = s.responses := rfl
@[simp] theorem countSample_trace (s : State) : (s.countSample).trace = s.trace := rfl
@[simp] theorem countSample_draws (s : State) : (s.countSample).draws = s.draws := rfl
@[simp] theorem countSample_opCount (s : State) : (s.countSample).opCount = s.opCount := rfl
@[simp] theorem countSample_smpCount (s : State) : (s.countSample).smpCount = s.smpCount + 1 := rfl

/-! ### setWin -/

@[simp] theorem setWin_params (s : State) (w : Window) : (s.setWin w).params = s.params := rfl
@[simp] theorem setWin_pins (s : State) (w : Window) : (s.setWin w).pins = s.pins := rfl
@[simp] theorem setWin_rxbuf (s : State) (w : Window) : (s.setWin w).rxbuf = s.rxbuf := rfl
@[simp] theorem setWin_result (s : State) (w : Window) : (s.setWin w).result = s.result := rfl
@[simp] theorem setWin_win (s : State) (w : Window) : (s.setWin w).win = w := rfl
@[simp] theorem setWin_flags (s : State) (w : Window) : (s.setWin w).flags = s.flags := rfl
@[simp] theorem setWin_hostPc (s : State) (w : Window) : (s.setWin w).hostPc = s.hostPc := rfl
@[simp] theorem setWin_pending (s : State) (w : Window) : (s.setWin w).pending = s.pending := rfl
@[simp] theorem setWin_responses (s : State) (w : Window) : (s.setWin w).responses = s.responses := rfl
@[simp] theorem setWin_trace (s : State) (w : Window) : (s.setWin w).trace = s.trace := rfl
@[simp] theorem setWin_draws (s : State) (w : Window) : (s.setWin w).draws = s.draws := rfl
@[simp] theorem setWin_opCount (s : State) (w : Window) : (s.setWin w).opCount = s.opCount := rfl
@[simp] theorem setWin_smpCount (s : State) (w : Window) : (s.setWin w).smpCount = s.smpCount := rfl

/-! ### setRxbuf -/

@[simp] theorem setRxbuf_params (s : State) (b : Byte) : (s.setRxbuf b).params = s.params := rfl
@[simp] theorem setRxbuf_pins (s : State) (b : Byte) : (s.setRxbuf b).pins = s.pins := rfl
@[simp] theorem setRxbuf_rxbuf (s : State) (b : Byte) : (s.setRxbuf b).rxbuf = b := rfl
@[simp] theorem setRxbuf_result (s : State) (b : Byte) : (s.setRxbuf b).result = s.result := rfl
@[simp] theorem setRxbuf_win (s : State) (b : Byte) : (s.setRxbuf b).win = s.win := rfl
@[simp] theorem setRxbuf_flags (s : State) (b : Byte) : (s.setRxbuf b).flags = s.flags := rfl
@[simp] theorem setRxbuf_hostPc (s : State) (b : Byte) : (s.setRxbuf b).hostPc = s.hostPc := rfl
@[simp] theorem setRxbuf_pending (s : State) (b : Byte) : (s.setRxbuf b).pending = s.pending := rfl
@[simp] theorem setRxbuf_responses (s : State) (b : Byte) : (s.setRxbuf b).responses = s.responses := rfl
@[simp] theorem setRxbuf_trace (s : State) (b : Byte) : (s.setRxbuf b).trace = s.trace := rfl
@[simp] theorem setRxbuf_draws (s : State) (b : Byte) : (s.setRxbuf b).draws = s.draws := rfl
@[simp] theorem setRxbuf_opCount (s : State) (b : Byte) : (s.setRxbuf b).opCount = s.opCount := rfl
@[simp] theorem setRxbuf_smpCount (s : State) (b : Byte) : (s.setRxbuf b).smpCount = s.smpCount := rfl

/-! ### setResult -/

@[simp] theorem setResult_params (s : State) (w : Word) : (s.setResult w).params = s.params := rfl
@[simp] theorem setResult_pins (s : State) (w : Word) : (s.setResult w).pins = s.pins := rfl
@[simp] theorem setResult_rxbuf (s : State) (w : Word) : (s.setResult w).rxbuf = s.rxbuf := rfl
@[simp] theorem setResult_result (s : State) (w : Word) : (s.setResult w).result = w := rfl
@[simp] theorem setResult_win (s : State) (w : Word) : (s.setResult w).win = s.win := rfl
@[simp] theorem setResult_flags (s : State) (w : Word) : (s.setResult w).flags = s.flags := rfl
@[simp] theorem setResult_hostPc (s : State) (w : Word) : (s.setResult w).hostPc = s.hostPc := rfl
@[simp] theorem setResult_pending (s : State) (w : Word) : (s.setResult w).pending = s.pending := rfl
@[simp] theorem setResult_responses (s : State) (w : Word) : (s.setResult w).responses = s.responses := rfl
@[simp] theorem setResult_trace (s : State) (w : Word) : (s.setResult w).trace = s.trace := rfl
@[simp] theorem setResult_draws (s : State) (w : Word) : (s.setResult w).draws = s.draws := rfl
@[simp] theorem setResult_opCount (s : State) (w : Word) : (s.setResult w).opCount = s.opCount := rfl
@[simp] theorem setResult_smpCount (s : State) (w : Word) : (s.setResult w).smpCount = s.smpCount := rfl

/-! ### setPending -/

@[simp] theorem setPending_params (s : State) (q : List Issue) : (s.setPending q).params = s.params := rfl
@[simp] theorem setPending_pins (s : State) (q : List Issue) : (s.setPending q).pins = s.pins := rfl
@[simp] theorem setPending_rxbuf (s : State) (q : List Issue) : (s.setPending q).rxbuf = s.rxbuf := rfl
@[simp] theorem setPending_result (s : State) (q : List Issue) : (s.setPending q).result = s.result := rfl
@[simp] theorem setPending_win (s : State) (q : List Issue) : (s.setPending q).win = s.win := rfl
@[simp] theorem setPending_flags (s : State) (q : List Issue) : (s.setPending q).flags = s.flags := rfl
@[simp] theorem setPending_hostPc (s : State) (q : List Issue) : (s.setPending q).hostPc = s.hostPc := rfl
@[simp] theorem setPending_pending (s : State) (q : List Issue) : (s.setPending q).pending = q := rfl
@[simp] theorem setPending_responses (s : State) (q : List Issue) : (s.setPending q).responses = s.responses := rfl
@[simp] theorem setPending_trace (s : State) (q : List Issue) : (s.setPending q).trace = s.trace := rfl
@[simp] theorem setPending_draws (s : State) (q : List Issue) : (s.setPending q).draws = s.draws := rfl
@[simp] theorem setPending_opCount (s : State) (q : List Issue) : (s.setPending q).opCount = s.opCount := rfl
@[simp] theorem setPending_smpCount (s : State) (q : List Issue) : (s.setPending q).smpCount = s.smpCount := rfl

/-! ### setFlags -/

@[simp] theorem setFlags_params (s : State) (f : Flags) : (s.setFlags f).params = s.params := rfl
@[simp] theorem setFlags_pins (s : State) (f : Flags) : (s.setFlags f).pins = s.pins := rfl
@[simp] theorem setFlags_rxbuf (s : State) (f : Flags) : (s.setFlags f).rxbuf = s.rxbuf := rfl
@[simp] theorem setFlags_result (s : State) (f : Flags) : (s.setFlags f).result = s.result := rfl
@[simp] theorem setFlags_win (s : State) (f : Flags) : (s.setFlags f).win = s.win := rfl
@[simp] theorem setFlags_flags (s : State) (f : Flags) : (s.setFlags f).flags = f := rfl
@[simp] theorem setFlags_hostPc (s : State) (f : Flags) : (s.setFlags f).hostPc = s.hostPc := rfl
@[simp] theorem setFlags_pending (s : State) (f : Flags) : (s.setFlags f).pending = s.pending := rfl
@[simp] theorem setFlags_responses (s : State) (f : Flags) : (s.setFlags f).responses = s.responses := rfl
@[simp] theorem setFlags_trace (s : State) (f : Flags) : (s.setFlags f).trace = s.trace := rfl
@[simp] theorem setFlags_draws (s : State) (f : Flags) : (s.setFlags f).draws = s.draws := rfl
@[simp] theorem setFlags_opCount (s : State) (f : Flags) : (s.setFlags f).opCount = s.opCount := rfl
@[simp] theorem setFlags_smpCount (s : State) (f : Flags) : (s.setFlags f).smpCount = s.smpCount := rfl

/-! ### respond -/

@[simp] theorem respond_params (s : State) (e : BitVec 4) (v : Word) : (s.respond e v).params = s.params := rfl
@[simp] theorem respond_pins (s : State) (e : BitVec 4) (v : Word) : (s.respond e v).pins = s.pins := rfl
@[simp] theorem respond_rxbuf (s : State) (e : BitVec 4) (v : Word) : (s.respond e v).rxbuf = s.rxbuf := rfl
@[simp] theorem respond_result (s : State) (e : BitVec 4) (v : Word) : (s.respond e v).result = s.result := rfl
@[simp] theorem respond_win (s : State) (e : BitVec 4) (v : Word) : (s.respond e v).win = s.win := rfl
@[simp] theorem respond_flags (s : State) (e : BitVec 4) (v : Word) : (s.respond e v).flags = s.flags := rfl
@[simp] theorem respond_hostPc (s : State) (e : BitVec 4) (v : Word) : (s.respond e v).hostPc = s.hostPc + 1 := rfl
@[simp] theorem respond_pending (s : State) (e : BitVec 4) (v : Word) : (s.respond e v).pending = s.pending := rfl
@[simp] theorem respond_responses (s : State) (e : BitVec 4) (v : Word) : (s.respond e v).responses = s.responses ++ [{ e := e, val := v }] := rfl
@[simp] theorem respond_trace (s : State) (e : BitVec 4) (v : Word) : (s.respond e v).trace = s.trace := rfl
@[simp] theorem respond_draws (s : State) (e : BitVec 4) (v : Word) : (s.respond e v).draws = s.draws := rfl
@[simp] theorem respond_opCount (s : State) (e : BitVec 4) (v : Word) : (s.respond e v).opCount = s.opCount := rfl
@[simp] theorem respond_smpCount (s : State) (e : BitVec 4) (v : Word) : (s.respond e v).smpCount = s.smpCount := rfl

/-! ### emit -/

@[simp] theorem emit_params (s : State) (e : Event) : (s.emit e).params = s.params := rfl
@[simp] theorem emit_pins (s : State) (e : Event) : (s.emit e).pins = e.onPins s.pins := rfl
@[simp] theorem emit_rxbuf (s : State) (e : Event) : (s.emit e).rxbuf = s.rxbuf := rfl
@[simp] theorem emit_result (s : State) (e : Event) : (s.emit e).result = s.result := rfl
@[simp] theorem emit_win (s : State) (e : Event) : (s.emit e).win = s.win := rfl
@[simp] theorem emit_flags (s : State) (e : Event) : (s.emit e).flags = s.flags := rfl
@[simp] theorem emit_hostPc (s : State) (e : Event) : (s.emit e).hostPc = s.hostPc := rfl
@[simp] theorem emit_pending (s : State) (e : Event) : (s.emit e).pending = s.pending := rfl
@[simp] theorem emit_responses (s : State) (e : Event) : (s.emit e).responses = s.responses := rfl
@[simp] theorem emit_trace (s : State) (e : Event) : (s.emit e).trace = s.trace ++ [e] := rfl
@[simp] theorem emit_draws (s : State) (e : Event) : (s.emit e).draws = s.draws := rfl
@[simp] theorem emit_opCount (s : State) (e : Event) : (s.emit e).opCount = s.opCount := rfl
@[simp] theorem emit_smpCount (s : State) (e : Event) : (s.emit e).smpCount = s.smpCount := rfl

/-! ### appendByte -/

@[simp] theorem appendByte_params (s : State) (r : Bool) (b : Byte) : (s.appendByte r b).params = s.params := rfl
@[simp] theorem appendByte_pins (s : State) (r : Bool) (b : Byte) : (s.appendByte r b).pins = s.pins := rfl
@[simp] theorem appendByte_rxbuf (s : State) (r : Bool) (b : Byte) : (s.appendByte r b).rxbuf = s.rxbuf := rfl
@[simp] theorem appendByte_result (s : State) (r : Bool) (b : Byte) : (s.appendByte r b).result = s.result := rfl
@[simp] theorem appendByte_win (s : State) (r : Bool) (b : Byte) : (s.appendByte r b).win = s.win.append r b := rfl
@[simp] theorem appendByte_flags (s : State) (r : Bool) (b : Byte) : (s.appendByte r b).flags = s.flags := rfl
@[simp] theorem appendByte_hostPc (s : State) (r : Bool) (b : Byte) : (s.appendByte r b).hostPc = s.hostPc := rfl
@[simp] theorem appendByte_pending (s : State) (r : Bool) (b : Byte) : (s.appendByte r b).pending = s.pending := rfl
@[simp] theorem appendByte_responses (s : State) (r : Bool) (b : Byte) : (s.appendByte r b).responses = s.responses := rfl
@[simp] theorem appendByte_trace (s : State) (r : Bool) (b : Byte) : (s.appendByte r b).trace = s.trace := rfl
@[simp] theorem appendByte_draws (s : State) (r : Bool) (b : Byte) : (s.appendByte r b).draws = s.draws := rfl
@[simp] theorem appendByte_opCount (s : State) (r : Bool) (b : Byte) : (s.appendByte r b).opCount = s.opCount := rfl
@[simp] theorem appendByte_smpCount (s : State) (r : Bool) (b : Byte) : (s.appendByte r b).smpCount = s.smpCount := rfl

end Sys2Proof.Laws
end

