-- ==== Sys2Proof/Laws/Flags.lean ====
section
/-! SUPPORT. What the error bookkeeping does to each flag (spec/60_exceptions.md R226), one lemma per field. -/

namespace Sys2Proof.Laws

open Sys2Proof Sys2Proof.Machine

@[simp] theorem note_eIll (f : Flags) (e : ErrorCode) (w : Word) :
    (f.note e w).eIll = (f.eIll || e == .illegalCommand) := by
  cases e <;> cases h : f.fev <;> simp [Flags.note, Flags.mark, Flags.recordFirst, h]

@[simp] theorem note_eArg (f : Flags) (e : ErrorCode) (w : Word) :
    (f.note e w).eArg = (f.eArg || e == .invalidArgument) := by
  cases e <;> cases h : f.fev <;> simp [Flags.note, Flags.mark, Flags.recordFirst, h]

@[simp] theorem note_eReg (f : Flags) (e : ErrorCode) (w : Word) :
    (f.note e w).eReg = (f.eReg || e == .invalidRegister) := by
  cases e <;> cases h : f.fev <;> simp [Flags.note, Flags.mark, Flags.recordFirst, h]

@[simp] theorem note_eWin (f : Flags) (e : ErrorCode) (w : Word) :
    (f.note e w).eWin = (f.eWin || (e == .windowClosed || e == .windowOpen)) := by
  cases e <;> cases h : f.fev <;> simp [Flags.note, Flags.mark, Flags.recordFirst, h]

@[simp] theorem note_eDir (f : Flags) (e : ErrorCode) (w : Word) :
    (f.note e w).eDir = (f.eDir || e == .direction) := by
  cases e <;> cases h : f.fev <;> simp [Flags.note, Flags.mark, Flags.recordFirst, h]

@[simp] theorem note_eFrame (f : Flags) (e : ErrorCode) (w : Word) :
    (f.note e w).eFrame = (f.eFrame || e == .frameViolation) := by
  cases e <;> cases h : f.fev <;> simp [Flags.note, Flags.mark, Flags.recordFirst, h]

@[simp] theorem note_fatal (f : Flags) (e : ErrorCode) (w : Word) :
    (f.note e w).fatal = (f.fatal || e == .pinFault) := by
  cases e <;> cases h : f.fev <;> simp [Flags.note, Flags.mark, Flags.recordFirst, h]

@[simp] theorem note_fev (f : Flags) (e : ErrorCode) (w : Word) : (f.note e w).fev = true := by
  cases e <;> cases h : f.fev <;> simp [Flags.note, Flags.mark, Flags.recordFirst, h]

@[simp] theorem note_firstErr (f : Flags) (e : ErrorCode) (w : Word) :
    (f.note e w).firstErr = if f.fev then f.firstErr else w := by
  cases e <;> cases h : f.fev <;> simp [Flags.note, Flags.mark, Flags.recordFirst, h]

end Sys2Proof.Laws
end

