-- ==== Sys2Proof/Laws/Ops.lean ====
section
/-! SUPPORT. What the shared operations can do. `Plays r s evs w P` says everything a micro-sequence does from `s`: with no
failing pin operation it emits exactly `evs` and returns with `P`; if pin operation `k` is the first to fail it raises
`PIN_FAULT` with the first `k` events emitted and the window tracker `w k`. One lemma of it for each operation. -/

namespace Sys2Proof.Laws

open Sys2Proof.Machine

/-! ### Runs -/

@[simp] theorem bind_done {α β : Type} (a : α) (s : State) (f : α → State → Run β) :
    (Run.done a s).bind f = f a s := rfl

@[simp] theorem bind_raised {α β : Type} (e : ErrorCode) (s : State) (f : α → State → Run β) :
    (Run.raised (α := α) e s).bind f = .raised e s := rfl

@[simp] theorem andThen_eq {α β : Type} (r : Run α) (f : State → Run β) : r.andThen f = r.bind fun _ s => f s := rfl

theorem bind_assoc {α β γ : Type} (r : Run α) (f : α → State → Run β) (g : β → State → Run γ) :
    (r.bind f).bind g = r.bind fun a s => (f a s).bind g := by cases r <;> rfl

/-! ### Draws -/

theorem opFails_eq (s : State) : s.opFails = s.failsAt 0 := rfl

/-- Failures seen from a state that has attempted `n` more operations under the same parameters and draws. -/
theorem failsAt_of_moved {s t : State} {n : Nat} (hp : t.params = s.params) (hd : t.draws = s.draws)
    (hn : t.opCount = s.opCount + n) (k : Nat) : t.failsAt k = s.failsAt (n + k) := by
  simp [State.failsAt, hp, hd, hn, Nat.add_assoc]

/-- Either none of the next `n` pin operations fails, or one is the first to. -/
theorem quiet_or_firstFailsAt (s : State) (n : Nat) : s.quiet n ∨ ∃ k, k < n ∧ s.firstFailsAt k := by
  induction n with
  | zero => exact .inl fun k hk => absurd hk (Nat.not_lt_zero k)
  | succ n ih =>
    obtain h | ⟨k, hk, hf⟩ := ih
    · cases hn : s.failsAt n with
      | true => exact .inr ⟨n, Nat.lt_succ_self n, h, hn⟩
      | false =>
        refine .inl fun k hk => ?_
        obtain h' | rfl := Nat.lt_succ_iff_lt_or_eq.mp hk
        · exact h k h'
        · exact hn
    · exact .inr ⟨k, Nat.lt_succ_of_lt hk, hf⟩

/-! ### What a micro-sequence leaves -/

/-- `t` is `s` moved over the events `evs`, with `n` pin operations attempted: nothing but the pins, the trace, the tracker
and the two counters differs. -/
structure Moved (s t : State) (evs : List Event) (n : Nat) : Prop where
  params : t.params = s.params
  rxbuf : t.rxbuf = s.rxbuf
  result : t.result = s.result
  flags : t.flags = s.flags
  hostPc : t.hostPc = s.hostPc
  pending : t.pending = s.pending
  responses : t.responses = s.responses
  draws : t.draws = s.draws
  trace : t.trace = s.trace ++ evs
  pins : t.pins = evs.foldl Event.onPins s.pins
  opCount : t.opCount = s.opCount + n

theorem Moved.refl (s : State) : Moved s s [] 0 := by constructor <;> simp

theorem Moved.trans {s t u : State} {e f : List Event} {m n : Nat} (h : Moved s t e m) (g : Moved t u f n) :
    Moved s u (e ++ f) (m + n) where
  params := g.params.trans h.params
  rxbuf := g.rxbuf.trans h.rxbuf
  result := g.result.trans h.result
  flags := g.flags.trans h.flags
  hostPc := g.hostPc.trans h.hostPc
  pending := g.pending.trans h.pending
  responses := g.responses.trans h.responses
  draws := g.draws.trans h.draws
  trace := by rw [g.trace, h.trace, List.append_assoc]
  pins := by rw [g.pins, h.pins, List.foldl_append]
  opCount := by rw [g.opCount, h.opCount, Nat.add_assoc]

theorem Moved.failsAt {s t : State} {e : List Event} {n : Nat} (h : Moved s t e n) (k : Nat) :
    t.failsAt k = s.failsAt (n + k) := failsAt_of_moved h.params h.draws h.opCount k

/-- Writing the tracker moves nothing else. -/
theorem Moved.setWin {s t : State} {e : List Event} {n : Nat} (h : Moved s t e n) (w : Window) :
    Moved s (t.setWin w) e n := by
  constructor <;> simp [h.params, h.rxbuf, h.result, h.flags, h.hostPc, h.pending, h.responses, h.draws, h.trace,
    h.pins, h.opCount]

/-- A moved state, written out. -/
theorem Moved.eq {s t : State} {e : List Event} {n : Nat} (h : Moved s t e n) :
    t = { s with
      trace := s.trace ++ e
      pins := e.foldl Event.onPins s.pins
      opCount := s.opCount + n
      win := t.win
      smpCount := t.smpCount } := by
  cases t
  simp only [State.mk.injEq, and_true, true_and]
  exact ⟨h.params, h.pins, h.rxbuf, h.result, h.flags, h.hostPc, h.pending, h.responses, h.trace, h.draws, h.opCount⟩

/-! ### Playing events -/

/-- Everything a micro-sequence can do from `s`. -/
structure Plays {α : Type} (r : Run α) (s : State) (evs : List Event) (w : Nat → Window) (P : α → State → Prop) :
    Prop where
  quiet : s.quiet evs.length → ∃ a t, r = .done a t ∧ Moved s t evs evs.length ∧ P a t
  fault : ∀ k, k < evs.length → s.firstFailsAt k →
    ∃ t, r = .raised .pinFault t ∧ Moved s t (evs.take k) (k + 1) ∧ t.win = w k

theorem Plays.done {α : Type} {a : α} {s t : State} {w : Nat → Window} {P : α → State → Prop}
    (hm : Moved s t [] 0) (h : P a t) : Plays (.done a t) s [] w P :=
  ⟨fun _ => ⟨a, t, rfl, hm, h⟩, fun _ hk => absurd hk (Nat.not_lt_zero _)⟩

/-- Two parts one after the other. -/
theorem Plays.bind {α β : Type} {r : Run α} {f : α → State → Run β} {s : State} {e1 e2 : List Event}
    {w1 w2 w : Nat → Window} {P : α → State → Prop} {Q : β → State → Prop} (h : Plays r s e1 w1 P)
    (g : ∀ a t, Moved s t e1 e1.length → P a t → Plays (f a t) t e2 w2 Q)
    (hw : ∀ k, w k = if k < e1.length then w1 k else w2 (k - e1.length)) :
    Plays (r.bind f) s (e1 ++ e2) w Q where
  quiet hq := by
    rw [List.length_append] at hq
    obtain ⟨a, t, rfl, hm, hp⟩ := h.quiet fun k hk => hq k (by omega)
    obtain ⟨b, u, hf, hm2, hQ⟩ := (g a t hm hp).quiet fun k hk => by
      rw [hm.failsAt]; exact hq _ (by omega)
    exact ⟨b, u, hf, by rw [List.length_append]; exact hm.trans hm2, hQ⟩
  fault k hk hf := by
    rw [List.length_append] at hk
    obtain hlt | hge := Nat.lt_or_ge k e1.length
    · obtain ⟨t, rfl, hm, ht⟩ := h.fault k hlt hf
      refine ⟨t, rfl, ?_, by rw [hw, if_pos hlt, ht]⟩
      rwa [List.take_append_of_le_length hlt.le]
    · obtain ⟨a, t, rfl, hm, hp⟩ := h.quiet fun j hj => hf.1 j (by omega)
      obtain ⟨u, hu, hm2, hwu⟩ := (g a t hm hp).fault (k - e1.length) (by omega)
        ⟨fun j hj => by rw [hm.failsAt]; exact hf.1 _ (by omega),
          by rw [hm.failsAt, Nat.add_sub_cancel' hge]; exact hf.2⟩
      refine ⟨u, hu, ?_, by rw [hw, if_neg (by omega), hwu]⟩
      have := hm.trans hm2
      rwa [show e1.length + (k - e1.length + 1) = k + 1 by omega,
        show e1 ++ List.take (k - e1.length) e2 = List.take k (e1 ++ e2) by
          rw [List.take_append, List.take_of_length_le hge]] at this

/-- A part followed by pure bookkeeping. -/
theorem Plays.map {α β : Type} {r : Run α} {f : α → State → Run β} {s : State} {e : List Event}
    {w : Nat → Window} {P : α → State → Prop} {Q : β → State → Prop} (h : Plays r s e w P)
    (g : ∀ a t, Moved s t e e.length → P a t → ∃ b u, f a t = .done b u ∧ Moved t u [] 0 ∧ Q b u) :
    Plays (r.bind f) s e w Q := by
  have := Plays.bind (w := w) (w2 := fun k => w (k + e.length)) h (e2 := []) (Q := Q) (f := f)
    (fun a t hm hp => by obtain ⟨b, u, hf, hm2, hq⟩ := g a t hm hp; rw [hf]; exact Plays.done hm2 hq)
    (fun k => by split <;> simp_all)
  simpa using this

theorem Plays.weaken {α : Type} {r : Run α} {s : State} {e : List Event} {w : Nat → Window} {P Q : α → State → Prop}
    (h : Plays r s e w P) (g : ∀ a t, Moved s t e e.length → P a t → Q a t) : Plays r s e w Q :=
  ⟨fun hq => by obtain ⟨a, t, h1, h2, h3⟩ := h.quiet hq; exact ⟨a, t, h1, h2, g a t h2 h3⟩, h.fault⟩

/-- The tracker and the sample counter are untouched. -/
def Keeps (s : State) (n : Nat) (t : State) : Prop := t.win = s.win ∧ t.smpCount = s.smpCount + n

/-- One pin operation (R105). -/
theorem pinOp_plays (e : Event) (s : State) :
    Plays (pinOp e s) s [e] (fun _ => s.win) fun _ t => Keeps s 0 t := by
  constructor
  · intro h
    have h0 : s.opFails = false := h 0 (by simp)
    exact ⟨(), s.countOp.emit e, by simp [pinOp, h0], by constructor <;> simp, by simp [Keeps]⟩
  · intro k hk h
    obtain rfl : k = 0 := by simpa using hk
    have h0 : s.opFails = true := h.2
    exact ⟨s.countOp, by simp [pinOp, h0], by constructor <;> simp, by simp⟩

theorem setDir_plays (d : Dir) (s : State) :
    Plays (setDir d s) s [.dir d] (fun _ => s.win) fun _ t => Keeps s 0 t := pinOp_plays _ s

theorem pulse_plays (s : State) :
    Plays (pulse s) s [.clk true, .clk false] (fun _ => s.win) fun _ t => Keeps s 0 t := by
  refine Plays.bind (e1 := [.clk true]) (e2 := [.clk false]) (pinOp_plays _ s) (w2 := fun _ => s.win)
    (fun _ t hm hp => ?_) (fun k => by simp)
  have := pinOp_plays (.clk false) t
  rw [hp.1] at this
  exact this.weaken fun _ u _ hu => ⟨by rw [hu.1, hp.1], by rw [hu.2, hp.2]⟩

theorem drive_plays (l : Bool) (s : State) (h : s.pins.ioDir = .out) :
    Plays (drive l s) s [.io l] (fun _ => s.win) fun _ t => Keeps s 0 t := by
  simp only [drive, h, if_true]
  exact pinOp_plays _ s

theorem sample_plays (s : State) (h : s.pins.ioDir = .inp) :
    Plays (sample s) s [.smp s.answer] (fun _ => s.win) fun b t => b = s.answer ∧ Keeps s 1 t := by
  have h1 : Plays (pinOp (.smp s.answer) s.countSample) s [.smp s.answer] (fun _ => s.win) fun _ t => Keeps s 1 t := by
    obtain ⟨hq, hf⟩ := pinOp_plays (.smp s.answer) s.countSample
    have key : ∀ {t e n}, Moved s.countSample t e n → Moved s t e n := fun h =>
      ⟨h.params, h.rxbuf, h.result, h.flags, h.hostPc, h.pending, h.responses, h.draws, h.trace, h.pins, h.opCount⟩
    refine ⟨fun q => ?_, fun k hk q => ?_⟩
    · obtain ⟨a, t, e, m, p⟩ := hq q
      exact ⟨a, t, e, key m, p⟩
    · obtain ⟨t, e, m, p⟩ := hf k hk q
      exact ⟨t, e, key m, p⟩
  simp only [sample, h, if_true]
  exact h1.map fun _ t _ ht => ⟨s.answer, t, rfl, Moved.refl t, rfl, ht⟩

/-- The bits of one byte, sent (R117). -/
theorem sendBits_plays (bs : List Bool) (s : State) (h : s.pins.ioDir = .out) :
    Plays (sendBits bs s) s (bs.flatMap fun b => [.io b, .clk true, .clk false]) (fun _ => s.win)
      fun _ t => Keeps s 0 t ∧ t.pins.ioDir = .out := by
  induction bs generalizing s with
  | nil => exact Plays.done (Moved.refl s) ⟨⟨rfl, rfl⟩, h⟩
  | cons b bs ih =>
    refine Plays.bind (e1 := [.io b]) (drive_plays b s h) (w2 := fun _ => s.win) (fun _ t1 m1 p1 => ?_)
      (fun k => by simp)
    have hp := pulse_plays t1
    rw [p1.1] at hp
    refine Plays.bind (e1 := [.clk true, .clk false]) hp (w2 := fun _ => s.win) (fun _ t2 m2 p2 => ?_)
      (fun k => by simp)
    have h2 : t2.pins.ioDir = .out := by simp [m2.pins, m1.pins, Event.onPins, h]
    have := ih t2 h2
    rw [p2.1, p1.1] at this
    exact this.weaken fun _ u _ hu => ⟨⟨by rw [hu.1.1, p2.1, p1.1], by rw [hu.1.2, p2.2, p1.2]⟩, hu.2⟩

/-- `tx` (R118, R129). -/
theorem tx_plays (x : Byte) (s : State) :
    Plays (tx x s) s (txEvents x) (fun _ => s.win) fun _ t => t.win = s.win.append false x ∧ t.smpCount = s.smpCount := by
  refine Plays.bind (e1 := [.dir .out]) (setDir_plays .out s) (w2 := fun _ => s.win) (fun _ t1 m1 p1 => ?_)
    (fun k => by simp)
  have h1 : t1.pins.ioDir = .out := by simp [m1.pins, Event.onPins]
  have hs := sendBits_plays (bitsLsb x) t1 h1
  rw [p1.1] at hs
  exact hs.map fun _ t2 _ p2 => ⟨(), t2.appendByte false x, rfl, (Moved.refl t2).setWin _,
    by simp [p2.1.1, p1.1], by simp [p2.1.2, p1.2]⟩

/-- The bits a list of positions gets, put into `acc` (R120). -/
def foldBits (d : Draws) : List Nat → Nat → Byte → Byte
  | [], _, acc => acc
  | i :: is, n, acc => foldBits d is (n + 1) (orBit acc i (d.answer n))

/-- The answers `n`, `n + 1`, ... of a list's length. -/
def nextAnswers (d : Draws) : List Nat → Nat → List Bool
  | [], _ => []
  | _ :: is, n => d.answer n :: nextAnswers d is (n + 1)

theorem receiveBits_plays (is : List Nat) (acc : Byte) (s : State) (h : s.pins.ioDir = .inp) :
    Plays (receiveBits is acc s) s
      ((nextAnswers s.draws is s.smpCount).flatMap fun b => [.smp b, .clk true, .clk false]) (fun _ => s.win)
      fun a t => a = foldBits s.draws is s.smpCount acc ∧ Keeps s is.length t := by
  induction is generalizing s acc with
  | nil => exact Plays.done (Moved.refl s) ⟨rfl, rfl, rfl⟩
  | cons i is ih =>
    refine Plays.bind (e1 := [.smp s.answer]) (sample_plays s h) (w2 := fun _ => s.win) (fun b t1 m1 p1 => ?_)
      (fun k => by simp)
    obtain ⟨rfl, p1⟩ := p1
    have hp := pulse_plays t1
    rw [p1.1] at hp
    refine Plays.bind (e1 := [.clk true, .clk false]) hp (w2 := fun _ => s.win) (fun _ t2 m2 p2 => ?_)
      (fun k => by simp)
    have h2 : t2.pins.ioDir = .inp := by simp [m2.pins, m1.pins, Event.onPins, h]
    have hd : t2.draws = s.draws := m2.draws.trans m1.draws
    have hc : t2.smpCount = s.smpCount + 1 := by rw [p2.2, p1.2]
    have := ih (orBit acc i s.answer) t2 h2
    rw [p2.1, p1.1, hd, hc] at this
    refine this.weaken fun a u _ hu => ⟨hu.1, by rw [hu.2.1, p2.1, p1.1], ?_⟩
    rw [hu.2.2, hc, List.length_cons]
    omega

/-- Eight bits put at their positions are the byte of those bits (R121). -/
theorem byteOfBits_eq_orBits (b0 b1 b2 b3 b4 b5 b6 b7 : Bool) :
    orBit (orBit (orBit (orBit (orBit (orBit (orBit (orBit 0#8 0 b0) 1 b1) 2 b2) 3 b3) 4 b4) 5 b5) 6 b6) 7 b7 =
      byteOfBits [b0, b1, b2, b3, b4, b5, b6, b7] := by
  revert b0 b1 b2 b3 b4 b5 b6 b7
  decide

/-- `rx` (R121, R129). -/
theorem rx_plays (s : State) :
    Plays (rx s) s (rxEvents s.answeredBits) (fun _ => s.win) fun a t =>
      a = s.answeredByte ∧ t.win = s.win.append true s.answeredByte ∧ t.smpCount = s.smpCount + 8 := by
  refine Plays.bind (e1 := [.dir .inp]) (setDir_plays .inp s) (w2 := fun _ => s.win) (fun _ t1 m1 p1 => ?_)
    (fun k => by simp)
  have h1 : t1.pins.ioDir = .inp := by simp [m1.pins, Event.onPins]
  have hs := receiveBits_plays [0, 1, 2, 3, 4, 5, 6, 7] 0x00#8 t1 h1
  have hc : t1.smpCount = s.smpCount := p1.2
  rw [p1.1, m1.draws, hc] at hs
  have hb : foldBits s.draws [0, 1, 2, 3, 4, 5, 6, 7] s.smpCount 0#8 = s.answeredByte := by
    simp only [foldBits, State.answeredByte, State.answeredBits, List.map, Nat.add_assoc, Nat.add_zero]
    exact byteOfBits_eq_orBits ..
  exact hs.map fun a t2 _ p2 => ⟨a, t2.appendByte true a, rfl, (Moved.refl t2).setWin _,
    by rw [p2.1, hb], by simp [p2.1, hb, p2.2.1, p1.1], by simp [p2.2.2, hc]⟩

/-- `CEON` (R104). -/
theorem ceOn_plays (s : State) :
    Plays (ceOn s) s [.ce true] (fun _ => s.win) fun _ t =>
      t.win = { len := 0#2, seq := 0#3, first := 0x00#8 } ∧ t.smpCount = s.smpCount :=
  (pinOp_plays _ s).map fun _ t _ p => ⟨(), t.setWin _, rfl, (Moved.refl t).setWin _, rfl, p.2⟩

/-- `CEOFF` (R104). -/
theorem ceOff_plays (s : State) :
    Plays (ceOff s) s [.ce false] (fun _ => s.win) fun _ t => Keeps s 0 t := pinOp_plays _ s

end Sys2Proof.Laws
end

