-- ==== Sys2Proof/Laws/Commands.lean ====
section
/-! SUPPORT. What the command bodies can do, past their checks; and how a command ends. -/

namespace Sys2Proof.Laws

open Sys2Proof.Machine

/-! ### The end of a command -/

theorem execute_done {w : Word} {x : Bool} {body : State → Run Word} {s t : State} {v : Word}
    (hf : (s.flags.fatal && !x) = false) (h : body s = .done v t) : execute w x body s = t.respond 0#4 v := by
  simp [execute, hf, h, finish]

theorem execute_raised {w : Word} {x : Bool} {body : State → Run Word} {s t : State} {e : ErrorCode}
    (hf : (s.flags.fatal && !x) = false) (h : body s = .raised e t) :
    execute w x body s = (t.setFlags (t.flags.note e w)).respond e.num 0x00000000#32 := by
  simp [execute, hf, h, finish]

/-- A command refused because `FATAL` is 1 is answered, and nothing else changes (R226, R232). -/
theorem execute_fatal {w : Word} {body : State → Run Word} {s : State} (hf : s.flags.fatal = true) :
    execute w false body s = s.answeredFatal := by
  simp [execute, hf, State.answeredFatal, State.respond, ErrorCode.num]

/-- A command refused by a check records its error and answers, and nothing else changes (R226). -/
theorem execute_refused {w : Word} {x : Bool} {body : State → Run Word} {s : State} {e : ErrorCode}
    (hf : (s.flags.fatal && !x) = false) (h : body s = .raised e s) :
    execute w x body s = s.answeredError e w := by
  rw [execute_raised hf h]; rfl

/-! ### The bodies -/

theorem csonBody_plays (s : State) (h : s.pins.ceAsserted = false) :
    Plays (csonBody s) s [.ce true] (fun _ => s.win) fun v t =>
      v = 0#32 ∧ t.win = emptyWindow ∧ t.smpCount = s.smpCount := by
  simp only [csonBody, h, Bool.false_eq_true, if_false, andThen_eq]
  exact (ceOn_plays s).map fun _ t _ p => ⟨_, t, rfl, Moved.refl t, rfl, p.1, p.2⟩

theorem wrbyteBody_plays (d : Byte) (s : State) (h : s.pins.ceAsserted = true) :
    Plays (wrbyteBody d s) s (txEvents d) (fun _ => s.win) fun v t =>
      v = 0#32 ∧ t.win = s.win.append false d ∧ t.smpCount = s.smpCount := by
  simp only [wrbyteBody, h, if_true, andThen_eq]
  exact (tx_plays d s).map fun _ t _ p => ⟨_, t, rfl, Moved.refl t, rfl, p.1, p.2⟩

theorem txEvents_length (x : Byte) : (txEvents x).length = 25 := by simp [txEvents, bitsLsb]

theorem rxEvents_length (s : State) : (rxEvents s.answeredBits).length = 25 := by
  simp [rxEvents, State.answeredBits]

theorem wrregBody_plays (a d : Byte) (s : State) (h : s.pins.ceAsserted = false) (ha : a ∈ wset) :
    Plays (wrregBody a d s) s (.ce true :: (txEvents a ++ (txEvents d ++ [.ce false])))
      (fun k => if k < 51 then framedWin s.win a k else (emptyWindow.append false a).append false d)
      fun v t => v = 0#32 ∧ t.win = (emptyWindow.append false a).append false d ∧ t.smpCount = s.smpCount := by
  simp only [wrregBody, h, Bool.false_eq_true, if_false, ha, if_true, andThen_eq]
  refine Plays.bind (e1 := [.ce true]) (ceOn_plays s)
    (w2 := fun k => if k < 25 then emptyWindow else if k < 50 then emptyWindow.append false a
      else (emptyWindow.append false a).append false d) (fun _ t1 m1 p1 => ?_) ?_
  · refine Plays.bind (tx_plays a t1)
      (w2 := fun k => if k < 25 then emptyWindow.append false a else (emptyWindow.append false a).append false d)
      (fun _ t2 m2 p2 => ?_) ?_
    · refine Plays.bind (tx_plays d t2) (w2 := fun _ => (emptyWindow.append false a).append false d)
        (fun _ t3 m3 p3 => ?_) ?_
      · have h3 : t3.win = (emptyWindow.append false a).append false d := by rw [p3.1, p2.1, p1.1]; rfl
        have := ceOff_plays t3
        rw [h3] at this
        exact this.map fun _ t _ p => ⟨_, t, rfl, Moved.refl t, rfl, by rw [p.1, h3], by
          rw [p.2, p3.2, p2.2, p1.2, Nat.add_zero]⟩
      · intro k
        have : t2.win = emptyWindow.append false a := by rw [p2.1, p1.1]; rfl
        simp only [txEvents_length, this]
    · intro k
      have : t1.win = emptyWindow := p1.1
      simp only [txEvents_length, this]
      split_ifs <;> first | rfl | omega
  · intro k
    simp only [List.length_singleton, framedWin]
    split_ifs <;> first | rfl | omega

/-- `RDREG` up to its last event, with the raw byte. -/
def rdregEvents (a : Byte) (s : State) : Run Byte :=
  (ceOn s).bind fun _ s1 => (tx a s1).bind fun _ s2 => (rx s2).bind fun raw s3 =>
    (ceOff s3).bind fun _ s4 => .done raw s4

theorem rdregBody_eq (a : Byte) (s : State) (h : s.pins.ceAsserted = false) (ha : a ∈ rset) :
    rdregBody a s = (rdregEvents a s).bind fun raw t =>
      .done (zext32 (bcdValue raw)) ((t.setRxbuf raw).setResult (zext32 (bcdValue raw))) := by
  simp only [rdregBody, h, Bool.false_eq_true, if_false, ha, if_true, andThen_eq, rdregEvents, bind_assoc, bind_done]

theorem answeredBits_of {s t : State} (hd : t.draws = s.draws) (hc : t.smpCount = s.smpCount) :
    t.answeredBits = s.answeredBits := by simp [State.answeredBits, hd, hc]

theorem rdregEvents_plays (a : Byte) (s : State) :
    Plays (rdregEvents a s) s (.ce true :: (txEvents a ++ (rxEvents s.answeredBits ++ [.ce false])))
      (fun k => if k < 51 then framedWin s.win a k else (emptyWindow.append false a).append true s.answeredByte)
      fun raw t => raw = s.answeredByte ∧ t.win = (emptyWindow.append false a).append true s.answeredByte ∧
        t.smpCount = s.smpCount + 8 := by
  refine Plays.bind (e1 := [.ce true]) (ceOn_plays s)
    (w2 := fun k => if k < 25 then emptyWindow else if k < 50 then emptyWindow.append false a
      else (emptyWindow.append false a).append true s.answeredByte) (fun _ t1 m1 p1 => ?_) ?_
  · refine Plays.bind (tx_plays a t1)
      (w2 := fun k => if k < 25 then emptyWindow.append false a
        else (emptyWindow.append false a).append true s.answeredByte)
      (fun _ t2 m2 p2 => ?_) ?_
    · have hb : t2.answeredBits = s.answeredBits :=
        answeredBits_of (m2.draws.trans m1.draws) (p2.2.trans p1.2)
      have hr := rx_plays t2
      have hB : t2.answeredByte = s.answeredByte := by simp only [State.answeredByte, hb]
      rw [hb, hB] at hr
      refine Plays.bind hr (w2 := fun _ => (emptyWindow.append false a).append true s.answeredByte)
        (fun raw t3 m3 p3 => ?_) ?_
      · have h3 : t3.win = (emptyWindow.append false a).append true s.answeredByte := by
          rw [p3.2.1, p2.1, p1.1]; rfl
        have := ceOff_plays t3
        rw [h3] at this
        exact this.map fun _ t _ p => ⟨_, t, rfl, Moved.refl t, p3.1, by rw [p.1, h3], by
          rw [p.2, p3.2.2, p2.2, p1.2, Nat.add_zero]⟩
      · intro k
        have : t2.win = emptyWindow.append false a := by rw [p2.1, p1.1]; rfl
        simp only [rxEvents_length, this]
    · intro k
      have : t1.win = emptyWindow := p1.1
      simp only [txEvents_length, this]
      split_ifs <;> first | rfl | omega
  · intro k
    simp only [List.length_singleton, framedWin]
    split_ifs <;> first | rfl | omega

theorem startBody_plays (s : State) (h : s.pins.ceAsserted = false) :
    Plays (startBody s) s (.ce true :: (txEvents 0xBE#8 ++ [.ce false])) (framedWin s.win 0xBE#8)
      fun v t => v = 0#32 ∧ t.win = emptyWindow.append false 0xBE#8 ∧ t.smpCount = s.smpCount := by
  simp only [startBody, h, Bool.false_eq_true, if_false, andThen_eq]
  refine Plays.bind (e1 := [.ce true]) (ceOn_plays s)
    (w2 := fun k => if k < 25 then emptyWindow else emptyWindow.append false 0xBE#8) (fun _ t1 m1 p1 => ?_) ?_
  · refine Plays.bind (tx_plays burstByte t1) (w2 := fun _ => emptyWindow.append false 0xBE#8)
      (fun _ t2 m2 p2 => ?_) ?_
    · have h2 : t2.win = emptyWindow.append false 0xBE#8 := by rw [p2.1, p1.1]; rfl
      have := ceOff_plays t2
      rw [h2] at this
      exact this.map fun _ t _ p => ⟨_, t, rfl, Moved.refl t, rfl, by rw [p.1, h2], by
        rw [p.2, p2.2, p1.2, Nat.add_zero]⟩
    · intro k
      have : t1.win = emptyWindow := p1.1
      simp only [txEvents_length, this]
  · intro k
    simp only [List.length_singleton, framedWin]
    split_ifs <;> first | rfl | omega

end Sys2Proof.Laws
end

