-- ==== Sys2Proof/Laws/Exec.lean ====
section
/-! SUPPORT. Everything `exec` can do with an instruction, said once (`exec_inversion`), and everything a step can do
(`step_inversion`): a command is refused while fatal and is only answered; or a check refuses it and only its error is
recorded; or it emits its events and answers; or it
is CSOFF on an invalid shape; or one of its pin operations is the first to fail. -/

namespace Sys2Proof.Laws

open Sys2Proof Sys2Proof.Machine

/-! ### One body for each instruction -/

/-- The body that `exec` runs. -/
def bodyOf : Instr → State → Run Word
  | .cson => csonBody
  | .csoff => csoffBody
  | .wrbyte d => wrbyteBody d
  | .rdbyte => rdbyteBody
  | .wrreg a d => wrregBody a d
  | .rdreg a => rdregBody a
  | .start => startBody
  | .bcdenc v => bcdencBody v
  | .bcddec d => bcddecBody d
  | .csrrd n => csrrdBody n
  | .secW => wrbyteBody 0x80#8
  | .secR => wrbyteBody 0x81#8
  | .minW => wrbyteBody 0x82#8
  | .minR => wrbyteBody 0x83#8
  | .hrW => wrbyteBody 0x84#8
  | .hrR => wrbyteBody 0x85#8
  | .dateW => wrbyteBody 0x86#8
  | .dateR => wrbyteBody 0x87#8
  | .monW => wrbyteBody 0x88#8
  | .monR => wrbyteBody 0x89#8
  | .dowW => wrbyteBody 0x8A#8
  | .dowR => wrbyteBody 0x8B#8
  | .yrW => wrbyteBody 0x8C#8
  | .yrR => wrbyteBody 0x8D#8
  | .wpW => wrbyteBody 0x8E#8
  | .tcW => wrbyteBody 0x90#8
  | .ramW => wrbyteBody 0xC0#8
  | .burst => wrbyteBody 0xBE#8

/-- `exec` is `execute` of the instruction's body under its word. -/
theorem exec_eq (i : Instr) (s : State) : exec i s = .next (execute (hcwOf i) (isCsrrd i) (bodyOf i) s) := by
  cases i <;> rfl

theorem csrValue_some {n : Byte} (h : n.toNat ≤ 4) (s : State) : ∃ v, csrValue n s = some v := by
  unfold csrValue
  have : n.toNat = 0 ∨ n.toNat = 1 ∨ n.toNat = 2 ∨ n.toNat = 3 ∨ n.toNat = 4 := by omega
  rcases this with h|h|h|h|h <;> simp [h]

theorem csrValue_none {n : Byte} (h : ¬ n.toNat ≤ 4) (s : State) : csrValue n s = none := by
  unfold csrValue
  split <;> first | omega | rfl

/-- A window that must be open and is not. -/
theorem wr_refused (d : Byte) (s : State) (e) (h : needsWindow s = some e) : wrbyteBody d s = .raised e s := by
  cases hc : s.pins.ceAsserted <;> simp_all [needsWindow, wrbyteBody]

/-- What a check finds, the body raises, with no effect. -/
theorem body_refused (i : Instr) (s : State) (e : ErrorCode) (h : checkError i s = some e) :
    bodyOf i s = .raised e s := by
  cases i
  case csrrd n =>
    simp only [checkError] at h
    by_cases hn : n.toNat ≤ 4
    · simp [hn] at h
    · simp only [hn, if_false, Option.some.injEq] at h
      subst h
      simp only [bodyOf, csrrdBody, csrValue_none hn]
  case bcdenc v =>
    simp only [checkError] at h
    by_cases hn : 0 ≤ v.toInt ∧ v.toInt ≤ 99
    · simp [hn] at h
    · simp only [hn, if_false, Option.some.injEq] at h
      subst h
      simp [bodyOf, bcdencBody, bcdInRange, sint16, hn]
  case bcddec => simp [checkError] at h
  case csoff => cases hc : s.pins.ceAsserted <;> simp_all [checkError, needsWindow, bodyOf, csoffBody]
  case rdbyte => cases hc : s.pins.ceAsserted <;> simp_all [checkError, needsWindow, bodyOf, rdbyteBody]
  case cson => cases hc : s.pins.ceAsserted <;> simp_all [checkError, needsNoWindow, bodyOf, csonBody]
  case start => cases hc : s.pins.ceAsserted <;> simp_all [checkError, needsNoWindow, bodyOf, startBody]
  case wrreg a d =>
    cases hc : s.pins.ceAsserted <;> by_cases ha : a ∈ wset <;> simp_all [checkError, needsNoWindow, bodyOf, wrregBody]
  case rdreg a =>
    cases hc : s.pins.ceAsserted <;> by_cases ha : a ∈ rset <;> simp_all [checkError, needsNoWindow, bodyOf, rdregBody]
  all_goals exact wr_refused _ s e h

/-! ### A command that no check refuses -/

/-- `u` differs from `t` in RXBUF and RESULT alone. -/
def UpTo (t u : State) : Prop := u = { t with rxbuf := u.rxbuf, result := u.result }

theorem UpTo.refl (t : State) : UpTo t t := rfl

theorem UpTo.fields {t u : State} (h : UpTo t u) :
    u.params = t.params ∧ u.pins = t.pins ∧ u.win = t.win ∧ u.flags = t.flags ∧ u.hostPc = t.hostPc ∧
      u.pending = t.pending ∧ u.responses = t.responses ∧ u.trace = t.trace ∧ u.draws = t.draws ∧
      u.opCount = t.opCount ∧ u.smpCount = t.smpCount := by
  unfold UpTo at h
  rw [h]
  simp

/-- What a body does, past its checks: its events and a value (or CSOFF's error 7), or the events before a pin fault. -/
structure BodySpec (i : Instr) (s : State) : Prop where
  quiet : s.quiet (commandEvents i s).length → ∃ t, Moved s t (commandEvents i s) (commandEvents i s).length ∧
    ((∃ v u, bodyOf i s = .done v u ∧ UpTo t u) ∨
      (i = .csoff ∧ bodyOf i s = .raised .frameViolation t ∧ t.win = s.win ∧ s.win.validShape = false))
  fault : ∀ k, k < (commandEvents i s).length → s.firstFailsAt k →
    ∃ t, bodyOf i s = .raised .pinFault t ∧ Moved s t ((commandEvents i s).take k) (k + 1)

theorem BodySpec.of_plays {i : Instr} {s : State} {w : Nat → Window} {P : Word → State → Prop}
    (h : Plays (bodyOf i s) s (commandEvents i s) w P) : BodySpec i s :=
  ⟨fun q => by obtain ⟨a, t, h1, h2, -⟩ := h.quiet q; exact ⟨t, h2, .inl ⟨a, t, h1, .refl t⟩⟩,
   fun k hk f => by obtain ⟨t, h1, h2, -⟩ := h.fault k hk f; exact ⟨t, h1, h2⟩⟩

theorem wrbyteBody_plays_checked {d : Byte} {s : State} (h : needsWindow s = none) :
    Plays (wrbyteBody d s) s (txEvents d) (fun _ => s.win) fun v t =>
      v = 0#32 ∧ t.win = s.win.append false d ∧ t.smpCount = s.smpCount :=
  wrbyteBody_plays d s (by cases hc : s.pins.ceAsserted <;> simp_all [needsWindow])

theorem rdbyteBody_eq (s : State) (h : s.pins.ceAsserted = true) :
    rdbyteBody s =
      (rx s).bind fun acc s1 => .done (zext32 acc) ((s1.setRxbuf acc).setResult (zext32 acc)) := by
  simp [rdbyteBody, h]

theorem csoffBody_quiet (s : State) (h : s.pins.ceAsserted = true) (q : s.quiet 1) :
    csoffBody s =
      (if s.win.validShape then .done 0#32 (s.countOp.emit (.ce false))
       else .raised .frameViolation (s.countOp.emit (.ce false))) := by
  have h0 : s.opFails = false := q 0 (by simp)
  simp only [csoffBody, h, ceOff, pinOp, h0, if_true, Bool.false_eq_true, if_false, andThen_eq, bind_done]
  rfl

theorem csoffBody_fault (s : State) (h : s.pins.ceAsserted = true) (q : s.failsAt 0 = true) :
    csoffBody s = .raised .pinFault s.countOp := by
  have h0 : s.opFails = true := q
  simp [csoffBody, h, ceOff, pinOp, h0]

theorem needsNoWindow_none {s : State} {o : Option ErrorCode} (h : needsNoWindow s o = none) :
    s.pins.ceAsserted = false ∧ o = none := by
  cases hc : s.pins.ceAsserted <;> simp_all [needsNoWindow]

theorem needsWindow_none {s : State} (h : needsWindow s = none) : s.pins.ceAsserted = true := by
  cases hc : s.pins.ceAsserted <;> simp_all [needsWindow]

theorem bodySpec (i : Instr) (s : State) (h : checkError i s = none) : BodySpec i s := by
  cases i
  case cson => exact BodySpec.of_plays (csonBody_plays s (needsNoWindow_none h).1)
  case csoff =>
    have hc := needsWindow_none h
    constructor
    · intro q
      refine ⟨s.countOp.emit (.ce false), by constructor <;> simp [commandEvents], ?_⟩
      simp only [bodyOf]
      rw [csoffBody_quiet s hc q]
      cases hv : s.win.validShape
      · exact .inr ⟨trivial, by rw [if_neg (by simp)], by rfl, by rfl⟩
      · exact .inl ⟨0#32, s.countOp.emit (.ce false), by rw [if_pos rfl], .refl _⟩
    · intro k hk f
      obtain rfl : k = 0 := by simpa [commandEvents] using hk
      exact ⟨_, csoffBody_fault s hc f.2, by constructor <;> simp [commandEvents]⟩
  case rdbyte =>
    have hc := needsWindow_none h
    have hp := rx_plays s
    constructor
    · intro q
      obtain ⟨a, t, h1, h2, -⟩ := hp.quiet q
      exact ⟨t, h2, .inl ⟨_, _, by simp only [bodyOf]; rw [rdbyteBody_eq s hc, h1]; rfl, by rfl⟩⟩
    · intro k hk f
      obtain ⟨t, h1, h2, -⟩ := hp.fault k hk f
      exact ⟨t, by simp only [bodyOf]; rw [rdbyteBody_eq s hc, h1]; rfl, h2⟩
  case rdreg a =>
    obtain ⟨hc, ha⟩ := needsNoWindow_none h
    have ha : a ∈ rset := by by_contra hn; simp [hn] at ha
    have hp := rdregEvents_plays a s
    constructor
    · intro q
      obtain ⟨a, t, h1, h2, -⟩ := hp.quiet q
      exact ⟨t, h2, .inl ⟨_, _, by simp only [bodyOf]; rw [rdregBody_eq _ s hc ha, h1]; rfl, by rfl⟩⟩
    · intro k hk f
      obtain ⟨t, h1, h2, -⟩ := hp.fault k hk f
      exact ⟨t, by simp only [bodyOf]; rw [rdregBody_eq _ s hc ha, h1]; rfl, h2⟩
  case wrreg a d =>
    obtain ⟨hc, ha⟩ := needsNoWindow_none h
    have ha : a ∈ wset := by by_contra hn; simp [hn] at ha
    exact BodySpec.of_plays (wrregBody_plays a d s hc ha)
  case start => exact BodySpec.of_plays (startBody_plays s (needsNoWindow_none h).1)
  case wrbyte d => exact BodySpec.of_plays (wrbyteBody_plays_checked h)
  case bcdenc v =>
    refine ⟨fun _ => ⟨s, Moved.refl s, .inl ?_⟩, fun k hk => absurd hk (Nat.not_lt_zero k)⟩
    have hv : 0 ≤ v.toInt ∧ v.toInt ≤ 99 := by by_contra hn; simp [checkError, hn] at h
    have : bcdInRange (sint16 v) = true := by simp [bcdInRange, sint16, hv]
    exact ⟨_, _, by simp only [bodyOf, bcdencBody, this, if_true]; rfl, by rfl⟩
  case bcddec d => exact ⟨fun _ => ⟨s, Moved.refl s, .inl ⟨_, _, rfl, rfl⟩⟩, fun k hk => absurd hk (Nat.not_lt_zero k)⟩
  case csrrd n =>
    refine ⟨fun _ => ⟨s, Moved.refl s, .inl ?_⟩, fun k hk => absurd hk (Nat.not_lt_zero k)⟩
    have hn : n.toNat ≤ 4 := by by_contra hn; simp [checkError, hn] at h
    obtain ⟨v, hv⟩ := csrValue_some hn s
    exact ⟨v, s, by simp [bodyOf, csrrdBody, hv], rfl⟩
  all_goals exact BodySpec.of_plays (wrbyteBody_plays_checked h)

theorem refusedWith_none {i : Instr} {s : State} (h : refusedWith i s = none) :
    (s.flags.fatal && !isCsrrd i) = false ∧ checkError i s = none := by
  unfold refusedWith at h
  split at h
  · simp at h
  · exact ⟨by simp_all, h⟩

/-- No check finds a direction error (R107). -/
theorem refusedWith_ne_direction (i : Instr) (s : State) : refusedWith i s ≠ some .direction := by
  intro hr
  unfold refusedWith at hr
  split at hr
  · simp at hr
  · cases i <;> simp only [checkError, needsWindow, needsNoWindow] at hr <;> (repeat' split at hr) <;> simp at hr

/-! ### Everything exec and step can do -/

/-- `PIN_FAULT` refuses a command before its first event exactly while the block is fatal (R229). -/
theorem refusedWith_pinFault {i : Instr} {s : State} :
    refusedWith i s = some .pinFault ↔ s.flags.fatal = true ∧ isCsrrd i = false := by
  unfold refusedWith
  split
  · simp_all
  · rename_i h
    refine ⟨fun hr => ?_, fun hc => by simp_all⟩
    exfalso
    cases i <;> simp only [checkError, needsWindow, needsNoWindow] at hr <;> (repeat' split at hr) <;> simp at hr

/-- The five ways a command ends. -/
inductive Ends (i : Instr) (s t : State) : Prop where
  /-- the block was fatal, and the command is only answered -/
  | fatal (hr : refusedWith i s = some .pinFault) (ht : t = s.answeredFatal)
  /-- a check refused it, and only the bookkeeping changed -/
  | refused (e : ErrorCode) (hr : refusedWith i s = some e) (he : e ≠ .pinFault) (ht : t = s.answeredError e (hcwOf i))
  /-- all its events happened, and it answered -/
  | done (hr : refusedWith i s = none) (hq : s.quiet (commandEvents i s).length) (m u : State) (v : Word)
      (hm : Moved s m (commandEvents i s) (commandEvents i s).length) (hu : UpTo m u) (hb : bodyOf i s = .done v u)
      (ht : t = u.respond 0#4 v)
  /-- CSOFF closed a window of an invalid shape -/
  | frame (hr : refusedWith i s = none) (hq : s.quiet 1) (hi : i = .csoff) (hv : s.win.validShape = false) (u : State)
      (hm : Moved s u [.ce false] 1) (hw : u.win = s.win)
      (ht : t = (u.setFlags (u.flags.note .frameViolation (hcwOf i))).respond 7#4 0#32)
  /-- its pin operation `k` was the first to fail -/
  | fault (hr : refusedWith i s = none) (k : Nat) (hk : k < (commandEvents i s).length) (hf : s.firstFailsAt k) (u : State)
      (hm : Moved s u ((commandEvents i s).take k) (k + 1)) (hb : bodyOf i s = .raised .pinFault u)
      (ht : t = (u.setFlags (u.flags.note .pinFault (hcwOf i))).respond 15#4 0#32)

/-- `exec` always answers a next state, in one of the five ways. -/
theorem exec_ends (i : Instr) (s : State) : ∃ t, exec i s = .next t ∧ Ends i s t := by
  cases hr : refusedWith i s with
  | some e =>
    by_cases he : e = .pinFault
    · subst he
      obtain ⟨hf, hi⟩ := refusedWith_pinFault.1 hr
      exact ⟨_, exec_eq i s, .fatal hr (by rw [hi, execute_fatal hf])⟩
    · refine ⟨_, exec_eq i s, .refused e hr he ?_⟩
      unfold refusedWith at hr
      split at hr
      · exact absurd (by simpa using hr.symm) he
      · rename_i hf
        exact execute_refused (by simpa using hf) (body_refused i s e hr)
  | none =>
    obtain ⟨hf, hc⟩ := refusedWith_none hr
    obtain q | ⟨k, hk, f⟩ := quiet_or_firstFailsAt s (commandEvents i s).length
    · obtain ⟨t, m, ⟨v, u, hb, hu⟩ | ⟨rfl, hb, hw, hv⟩⟩ := (bodySpec i s hc).quiet q
      · exact ⟨_, by rw [exec_eq, execute_done hf hb], .done hr q t u v m hu hb rfl⟩
      · exact ⟨_, by rw [exec_eq, execute_raised hf hb]; rfl, .frame hr q rfl hv t m hw rfl⟩
    · obtain ⟨t, hb, m⟩ := (bodySpec i s hc).fault k hk f
      exact ⟨_, by rw [exec_eq, execute_raised hf hb]; rfl, .fault hr k hk f t m hb rfl⟩

theorem exec_inversion {i : Instr} {s t : State} (h : exec i s = .next t) : Ends i s t := by
  obtain ⟨t', h', h2⟩ := exec_ends i s
  rw [h] at h'
  cases h'
  exact h2

/-- A step waits, runs the instruction it decodes, or answers an illegal word. -/
theorem step_inversion {s t : State} (h : step s = .next t) :
    (s.pending = [] ∧ t = s) ∨
    (∃ x q i, s.pending = x :: q ∧ decode x = .ok i ∧ exec i (s.setPending q) = .next t) ∨
    (∃ w q e, s.pending = .word w :: q ∧ decodeWord w = .error e ∧
      t = if s.flags.fatal then (s.setPending q).answeredFatal
          else (s.setPending q).answeredError .illegalCommand w) := by
  unfold step at h
  cases hp : s.pending with
  | nil => simp [hp] at h; exact .inl ⟨rfl, h.symm⟩
  | cons x q =>
    simp only [hp] at h
    cases hd : decode x with
    | ok i => simp only [hd] at h; exact .inr (.inl ⟨x, q, i, rfl, hd, h⟩)
    | error e =>
      simp only [hd] at h
      cases x with
      | commandByte b => simp [rejectIssue] at h
      | word w =>
        refine .inr (.inr ⟨w, q, e, rfl, hd, ?_⟩)
        simp only [rejectIssue, Host.Outcome.next.injEq] at h
        subst h
        cases hf : s.flags.fatal with
        | true => rw [executeIllegal, execute_fatal (by simpa using hf)]; rfl
        | false => rw [executeIllegal, execute_refused (e := .illegalCommand) (by simp [hf]) rfl]; rfl

/-! ### Event lists -/

theorem foldl_txEvents (x : Byte) (p : Pins) :
    (txEvents x).foldl Event.onPins p = { p with sclkLvl := false, ioDir := .out, ioOut := x.getLsbD 7 } := by
  simp [txEvents, bitsLsb, Event.onPins]

theorem foldl_rxEvents (s : State) (p : Pins) :
    (rxEvents s.answeredBits).foldl Event.onPins p = { p with sclkLvl := false, ioDir := .inp } := by
  simp [rxEvents, State.answeredBits, Event.onPins]

theorem eventsLegal_append (p : Pins) (l m : List Event) :
    eventsLegal p (l ++ m) = (eventsLegal p l && eventsLegal (l.foldl Event.onPins p) m) := by
  induction l generalizing p with
  | nil => simp [eventsLegal]
  | cons e l ih => simp [eventsLegal, ih, Bool.and_assoc]

theorem eventsLegal_take (p : Pins) (l : List Event) (k : Nat) (h : eventsLegal p l = true) :
    eventsLegal p (l.take k) = true := by
  induction l generalizing p k with
  | nil => simp [eventsLegal]
  | cons e l ih => cases k <;> simp_all [eventsLegal]

theorem eventsLegal_txEvents (x : Byte) (p : Pins) : eventsLegal p (txEvents x) = true := by
  simp [txEvents, bitsLsb, eventsLegal, Event.legalAt, Event.onPins]

theorem eventsLegal_rxEvents (s : State) (p : Pins) : eventsLegal p (rxEvents s.answeredBits) = true := by
  simp [rxEvents, State.answeredBits, eventsLegal, Event.legalAt, Event.onPins]

end Sys2Proof.Laws
end

