-- ==== Sys2Proof/Laws/Facade.lean ====
section
/-! SUPPORT. What the host's operations can do (spec/46_host_sequences.md R180, R181), said once: `issue` answers what the
command answers, and `Performs r s evs n P` says everything an operation of `n` commands does from a block that is not
fatal and has no window open. One lemma of it for `issue`, and one for each way of putting operations together. -/

namespace Sys2Proof.Laws

open Sys2Proof Sys2Proof.Machine

/-! ### Issuing one command -/

/-- The state the host leaves by issuing a word and the step that takes it is the state `exec` leaves. -/
theorem step_issued {i : Instr} (hd : decodeWord (hcwOf i) = .ok i) (s : State) :
    step (s.setPending (.word (hcwOf i) :: s.pending)) = exec i s := by
  simp only [step, setPending_pending, decode, hd]
  rfl

/-- A command whose body ends with a value. -/
theorem issue_done {i : Instr} {s u : State} {v : Word} (hd : decodeWord (hcwOf i) = .ok i)
    (hf : (s.flags.fatal && !isCsrrd i) = false) (hb : bodyOf i s = .done v u) :
    issue i s = .ok v (u.respond 0#4 v) := by
  simp [issue, issueWord, step_issued hd, exec_eq, execute_done hf hb]

/-- A command whose body ends with an error. -/
theorem issue_raised {i : Instr} {s u : State} {e : ErrorCode} (hd : decodeWord (hcwOf i) = .ok i)
    (hf : (s.flags.fatal && !isCsrrd i) = false) (hb : bodyOf i s = .raised e u) :
    issue i s = .failed e.num ((u.setFlags (u.flags.note e (hcwOf i))).respond e.num 0#32) := by
  have : e.num ≠ 0#4 := by cases e <;> decide
  simp [issue, issueWord, step_issued hd, exec_eq, execute_raised hf hb, this]

/-! ### What an operation leaves -/

/-- `t` is `s` after `n` successful commands that emitted `evs` and closed every window they opened. -/
structure Issued (s t : State) (evs : List Event) (n : Nat) : Prop where
  params : t.params = s.params
  draws : t.draws = s.draws
  pending : t.pending = s.pending
  flags : t.flags = s.flags
  trace : t.trace = s.trace ++ evs
  opCount : t.opCount = s.opCount + evs.length
  hostPc : t.hostPc = s.hostPc + n
  closed : t.pins.ceAsserted = false

theorem Issued.refl {s : State} (h : s.pins.ceAsserted = false) : Issued s s [] 0 := by constructor <;> simp [h]

theorem Issued.trans {s t u : State} {e f : List Event} {m n : Nat} (h : Issued s t e m) (g : Issued t u f n) :
    Issued s u (e ++ f) (m + n) where
  params := g.params.trans h.params
  draws := g.draws.trans h.draws
  pending := g.pending.trans h.pending
  flags := g.flags.trans h.flags
  trace := by rw [g.trace, h.trace, List.append_assoc]
  opCount := by rw [g.opCount, h.opCount, List.length_append, Nat.add_assoc]
  hostPc := by rw [g.hostPc, h.hostPc, Nat.add_assoc]
  closed := g.closed

theorem Issued.failsAt {s t : State} {e : List Event} {n : Nat} (h : Issued s t e n) (k : Nat) :
    t.failsAt k = s.failsAt (e.length + k) := failsAt_of_moved h.params h.draws h.opCount k

/-- Everything an operation can do from `s`: with no failing pin operation it emits exactly `evs` in `n` commands and ends
with `P`; and if pin operation `k` is the first to fail it ends with error 15 and exactly the first `k` events. -/
structure Performs {α : Type} (r : HostRun α) (s : State) (evs : List Event) (n : Nat) (P : α → State → Prop) : Prop where
  quiet : s.quiet evs.length → ∃ a t, r = .ok a t ∧ Issued s t evs n ∧ P a t
  fault : ∀ k, k < evs.length → s.firstFailsAt k →
    ∃ t, r = .failed 15#4 t ∧ t.trace = s.trace ++ evs.take k ∧ t.flags.fatal = true

theorem Performs.ok {α : Type} {a : α} {s : State} {P : α → State → Prop} (hc : s.pins.ceAsserted = false) (h : P a s) :
    Performs (.ok a s) s [] 0 P :=
  ⟨fun _ => ⟨a, s, rfl, Issued.refl hc, h⟩, fun _ hk => absurd hk (Nat.not_lt_zero _)⟩

theorem Performs.weaken {α : Type} {r : HostRun α} {s : State} {e : List Event} {n : Nat} {P Q : α → State → Prop}
    (h : Performs r s e n P) (g : ∀ a t, Issued s t e n → P a t → Q a t) : Performs r s e n Q :=
  ⟨fun hq => by obtain ⟨a, t, h1, h2, h3⟩ := h.quiet hq; exact ⟨a, t, h1, h2, g a t h2 h3⟩, h.fault⟩

/-- Two parts one after the other (R180). -/
theorem Performs.bind {α β : Type} {r : HostRun α} {f : α → State → HostRun β} {s : State} {e1 e2 : List Event}
    {m n : Nat} {P : α → State → Prop} {Q : β → State → Prop} (h : Performs r s e1 m P)
    (g : ∀ a t, Issued s t e1 m → P a t → Performs (f a t) t e2 n Q) :
    Performs (r.bind f) s (e1 ++ e2) (m + n) Q where
  quiet hq := by
    rw [List.length_append] at hq
    obtain ⟨a, t, rfl, hm, hp⟩ := h.quiet fun k hk => hq k (by omega)
    obtain ⟨b, u, hf, hm2, hQ⟩ := (g a t hm hp).quiet fun k hk => by
      rw [hm.failsAt]; exact hq _ (by omega)
    exact ⟨b, u, hf, hm.trans hm2, hQ⟩
  fault k hk hf := by
    rw [List.length_append] at hk
    obtain hlt | hge := Nat.lt_or_ge k e1.length
    · obtain ⟨t, rfl, ht, hx⟩ := h.fault k hlt hf
      exact ⟨t, rfl, by rw [ht, List.take_append_of_le_length hlt.le], hx⟩
    · obtain ⟨a, t, rfl, hm, hp⟩ := h.quiet fun j hj => hf.1 j (by omega)
      obtain ⟨u, hu, ht, hx⟩ := (g a t hm hp).fault (k - e1.length) (by omega)
        ⟨fun j hj => by rw [hm.failsAt]; exact hf.1 _ (by omega), by
          rw [hm.failsAt, show e1.length + (k - e1.length) = k by omega]; exact hf.2⟩
      exact ⟨u, hu, by rw [ht, hm.trace, List.append_assoc, List.take_append, List.take_of_length_le hge], hx⟩

/-- `issue` of a command that no check refuses and that leaves no window open. -/
theorem issue_performs {i : Instr} {s : State} (hd : decodeWord (hcwOf i) = .ok i) (hr : refusedWith i s = none)
    (hi : i ≠ .csoff) (hc : ((commandEvents i s).foldl Event.onPins s.pins).ceAsserted = false) :
    Performs (issue i s) s (commandEvents i s) 1 fun v t =>
      s.quiet (commandEvents i s).length ∧ ∃ u, bodyOf i s = .done v u ∧ t = u.respond 0#4 v := by
  obtain ⟨hf, hk⟩ := refusedWith_none hr
  constructor
  · intro hq
    obtain ⟨m, hm, ⟨v, u, hb, hu⟩ | ⟨h, -⟩⟩ := (bodySpec i s hk).quiet hq
    · obtain ⟨f1, f2, -, f4, f5, f6, -, f8, f9, f10, -⟩ := hu.fields
      exact ⟨v, u.respond 0#4 v, issue_done hd hf hb,
        ⟨by simp [f1, hm.params], by simp [f9, hm.draws], by simp [f6, hm.pending], by simp [f4, hm.flags],
          by simp [f8, hm.trace], by simp [f10, hm.opCount], by simp [f5, hm.hostPc],
          by rw [respond_pins, f2, hm.pins]; exact hc⟩, hq, u, hb, rfl⟩
    · exact absurd h hi
  · intro k hk' hf'
    obtain ⟨u, hb, hm⟩ := (bodySpec i s hk).fault k hk' hf'
    exact ⟨_, issue_raised hd hf hb, by simp [hm.trace], by simp⟩

end Sys2Proof.Laws
end

