-- ==== Sys2Proof/Laws/Peer.lean ====
section
/-! SUPPORT. The small lemmas of the reference peer (spec/60_exceptions.md R245 to R252): its registers, and the events it
observes in parts. -/

namespace Sys2Proof.Laws

open Sys2Proof Sys2Proof.Machine

/-- Writing one register leaves every other. -/
theorem reg_setReg (p : RefPeer) (c c' : PeerClass) (i i' : BitVec 5) (v : Byte) :
    (p.setReg c i v).reg c' i' = if c' = c ∧ i' = i then v else p.reg c' i' := by
  have h : i.toNat = i'.toNat ↔ i' = i := ⟨fun h => (BitVec.eq_of_toNat_eq h).symm, fun h => by rw [h]⟩
  cases c <;> cases c' <;> simp [RefPeer.reg, RefPeer.setReg, Vector.getElem_set, h]

@[simp] theorem affect_desync (p : RefPeer) (e : PeerEffect) : (p.affect e).desync = (p.desync || e.desync) := rfl

@[simp] theorem affect_shadow (p : RefPeer) (e : PeerEffect) : (p.affect e).shadow = e.shadow.getD p.shadow := rfl

theorem byteOfBits_bitsLsb (b : Byte) : byteOfBits (bitsLsb b) = b := by revert b; decide

theorem observeAll_append (d : PeerDraws) (p : RefPeer) (l m : List Event) :
    p.observeAll d (l ++ m) = (p.observeAll d l).observeAll d m := by
  induction l generalizing p with
  | nil => rfl
  | cons e l ih => simp [RefPeer.observeAll, ih]

theorem agrees_append (d : PeerDraws) (p : RefPeer) (l m : List Event) :
    p.agrees d (l ++ m) = (p.agrees d l && (p.observeAll d l).agrees d m) := by
  induction l generalizing p with
  | nil => simp [RefPeer.agrees, RefPeer.observeAll]
  | cons e l ih => simp [RefPeer.observeAll, RefPeer.agrees, ih, Bool.and_assoc]

/-- Opening a window leaves in each register what the tick between the windows has made (R253). -/
@[simp] theorem observe_open_reg (d : PeerDraws) (p : RefPeer) (c : PeerClass) (i : BitVec 5) :
    (p.observe d (.ce true)).reg c i = (p.ticked d).reg c i := by cases c <;> rfl

end Sys2Proof.Laws
end

