-- ==== Sys2Proof/Laws/PerInstr.lean ====
section
/-! SUPPORT. Facts about every instruction as syntax, one lemma per constructor. -/

namespace Sys2Proof.Laws.EncodingShape

open Sys2Proof

/-- The opcode and the format of a host command (R76). -/
def opcodeFormat : Instr → Option (Byte × Format)
  | .cson => some (0x01#8, .n)
  | .csoff => some (0x02#8, .n)
  | .wrbyte _ => some (0x03#8, .y)
  | .rdbyte => some (0x04#8, .n)
  | .wrreg _ _ => some (0x10#8, .rw)
  | .rdreg _ => some (0x11#8, .rr)
  | .start => some (0x12#8, .n)
  | .bcdenc _ => some (0x20#8, .i)
  | .bcddec _ => some (0x21#8, .y)
  | .csrrd _ => some (0x30#8, .c)
  | .secW | .secR | .minW | .minR | .hrW | .hrR | .dateW | .dateR | .monW | .monR | .dowW | .dowR => none
  | .yrW | .yrR | .wpW | .tcW | .ramW | .burst => none

/-- An instruction is encoded as a word with the opcode of R76 and zeros in every bit its format marks `0` (R74), or as a
command byte with the marker bit 1 (R70). -/
def Statement (i : Instr) : Prop :=
  match encode i with
  | .word w => ∃ opc f, opcodeFormat i = some (opc, f) ∧ opcField w = opc ∧ f.wordOk w = true
  | .commandByte b => opcodeFormat i = none ∧ commandByteOk b = true

theorem field_opc (o a : Byte) (b : BitVec 16) : opcField (hcw o a b) = o := by
  apply BitVec.eq_of_getLsbD_eq
  intro i h
  simp only [opcField, hcw, BitVec.getLsbD_extractLsb', BitVec.getLsbD_append]
  have h1 : ¬(24 + i < 16) := by omega
  have h2 : ¬(24 + i - 16 < 8) := by omega
  have h3 : 24 + i - 16 - 8 = i := by omega
  simp only [h, h1, h2, h3, if_false, decide_true, Bool.true_and]

theorem hcw_and (o a o' a' : Byte) (b b' : BitVec 16) :
    hcw o a b &&& hcw o' a' b' = hcw (o &&& o') (a &&& a') (b &&& b') := by
  apply BitVec.eq_of_getLsbD_eq
  intro i h
  simp only [hcw, BitVec.getLsbD_and, BitVec.getLsbD_append]
  split_ifs <;> rfl

/-- A word is well-formed when the mask's parts meet none of its fields. -/
theorem wordOk_hcw {f : Format} {o a ma : Byte} {b mb : BitVec 16} (hm : f.reservedMask = hcw 0x00#8 ma mb)
    (ha : a &&& ma = 0#8) (hb : b &&& mb = 0#16) : f.wordOk (hcw o a b) = true := by
  simp only [Format.wordOk, hm, hcw_and, ha, hb, BitVec.and_zero]
  decide

theorem dataOperand_high (d : Byte) : dataOperand d &&& 0xFF00#16 = 0#16 := by revert d; decide

theorem cson : Statement .cson := ⟨_, _, rfl, by decide, by decide⟩
theorem csoff : Statement .csoff := ⟨_, _, rfl, by decide, by decide⟩
theorem rdbyte : Statement .rdbyte := ⟨_, _, rfl, by decide, by decide⟩
theorem start : Statement .start := ⟨_, _, rfl, by decide, by decide⟩

theorem wrbyte (d : Byte) : Statement (.wrbyte d) :=
  ⟨_, _, rfl, field_opc .., wordOk_hcw (ma := 0xFF#8) (mb := 0xFF00#16) (by decide) (by decide) (dataOperand_high d)⟩

theorem wrreg (a d : Byte) : Statement (.wrreg a d) :=
  ⟨_, _, rfl, field_opc .., wordOk_hcw (ma := 0x00#8) (mb := 0xFF00#16) (by decide) (BitVec.and_zero ..)
    (dataOperand_high d)⟩

theorem rdreg (a : Byte) : Statement (.rdreg a) :=
  ⟨_, _, rfl, field_opc .., wordOk_hcw (ma := 0x00#8) (mb := 0xFFFF#16) (by decide) (BitVec.and_zero ..) (by decide)⟩

theorem bcdenc (v : BitVec 16) : Statement (.bcdenc v) :=
  ⟨_, _, rfl, field_opc .., wordOk_hcw (ma := 0xFF#8) (mb := 0x0000#16) (by decide) (by decide) (BitVec.and_zero ..)⟩

theorem bcddec (d : Byte) : Statement (.bcddec d) :=
  ⟨_, _, rfl, field_opc .., wordOk_hcw (ma := 0xFF#8) (mb := 0xFF00#16) (by decide) (by decide) (dataOperand_high d)⟩

theorem csrrd (n : Byte) : Statement (.csrrd n) :=
  ⟨_, _, rfl, field_opc .., wordOk_hcw (ma := 0x00#8) (mb := 0xFFFF#16) (by decide) (BitVec.and_zero ..) (by decide)⟩

theorem secW : Statement .secW := ⟨rfl, by decide⟩
theorem secR : Statement .secR := ⟨rfl, by decide⟩
theorem minW : Statement .minW := ⟨rfl, by decide⟩
theorem minR : Statement .minR := ⟨rfl, by decide⟩
theorem hrW : Statement .hrW := ⟨rfl, by decide⟩
theorem hrR : Statement .hrR := ⟨rfl, by decide⟩
theorem dateW : Statement .dateW := ⟨rfl, by decide⟩
theorem dateR : Statement .dateR := ⟨rfl, by decide⟩
theorem monW : Statement .monW := ⟨rfl, by decide⟩
theorem monR : Statement .monR := ⟨rfl, by decide⟩
theorem dowW : Statement .dowW := ⟨rfl, by decide⟩
theorem dowR : Statement .dowR := ⟨rfl, by decide⟩
theorem yrW : Statement .yrW := ⟨rfl, by decide⟩
theorem yrR : Statement .yrR := ⟨rfl, by decide⟩
theorem wpW : Statement .wpW := ⟨rfl, by decide⟩
theorem tcW : Statement .tcW := ⟨rfl, by decide⟩
theorem ramW : Statement .ramW := ⟨rfl, by decide⟩
theorem burst : Statement .burst := ⟨rfl, by decide⟩

end Sys2Proof.Laws.EncodingShape
end

