-- ==== Sys2Proof/Tests/Slice0.lean ====
section
/-! SUPPORT. Tests: well-formedness, decoding of words written out from the spec's encodings, vectors of
spec/95_test_vectors.md (S<n>, V<n>), and for each statement with hypotheses a witness that meets them together. Every
expected value is the spec's. -/

namespace Sys2Proof.Tests

open Sys2Proof Sys2Proof.Machine

/-! ### Small states -/

/-- Reset, with `n` pin operations written down that succeed. -/
def quietReset (n : Nat) : State := { State.reset with draws := { answers := [], faults := List.replicate n false } }

/-- The same, and the peer answers the bits of `x` first. -/
def answering (n : Nat) (x : Byte) : State :=
  { quietReset n with draws := { answers := bitsLsb x, faults := List.replicate n false } }

/-- Reset, with pin operation `k` the first to fail. -/
def failing (k : Nat) : State :=
  { State.reset with draws := { answers := [], faults := List.replicate k false ++ [true] } }

/-- A state with its window open and this tracker. -/
def opened (s : State) (w : Window) : State := { s with pins := { s.pins with ceAsserted := true }, win := w }

/-- A state in which a pin fault has been recorded. -/
def fatalState : State :=
  { State.reset with flags := { State.reset.flags with fatal := true, fev := true, firstErr := 0x10800030#32 } }

/-- A state without `PIN_FAULTS`. -/
def infallible : State := { State.reset with params := { State.reset.params with pinFaults := false } }

/-- A tracker from its fields. -/
def window (len : BitVec 2) (seq : BitVec 3) (first : Byte) : Window := { len := len, seq := seq, first := first }

/-- The state a next outcome leaves. -/
def nextOf : Host.Outcome State Fault Refusal → Option State
  | .next t => some t
  | .fault _ => none
  | .refused _ => none

/-- A property of the state `exec` leaves. -/
def leaves (i : Instr) (s : State) (p : State → Bool) : Bool := ((nextOf (exec i s)).map p).getD false

/-- The last response is this one. -/
def answered (e : BitVec 4) (v : Word) (t : State) : Bool := t.responses.getLast? == some { e := e, val := v }

/-- The values STATUS, WIN and FIRSTERR of a state. -/
def csrs (t : State) : Word × Word × Word := (statusWord t, winWord t, t.flags.firstErr)

/-! ### Well-formedness: an ill-formed term for each check -/

theorem test_wf_csrrd_number : Instr.wellFormed (.csrrd 0x05#8) = false ∧ Instr.wellFormed (.csrrd 0x04#8) = true := by decide
theorem test_wf_format_n : Format.wordOk .n 0x01000001#32 = false ∧ Format.wordOk .n 0x01000000#32 = true := by decide
theorem test_wf_format_y : Format.wordOk .y 0x03000100#32 = false ∧ Format.wordOk .y 0x030000FF#32 = true := by decide
theorem test_wf_format_rw : Format.wordOk .rw 0x10800100#32 = false ∧ Format.wordOk .rw 0x10FF00FF#32 = true := by decide
theorem test_wf_format_rr : Format.wordOk .rr 0x11810001#32 = false ∧ Format.wordOk .rr 0x11FF0000#32 = true := by decide
theorem test_wf_format_i : Format.wordOk .i 0x20010000#32 = false ∧ Format.wordOk .i 0x2000FFFF#32 = true := by decide
theorem test_wf_format_c : Format.wordOk .c 0x30000001#32 = false ∧ Format.wordOk .c 0x30FF0000#32 = true := by decide
theorem test_wf_marker_bit : commandByteOk 0x00#8 = false ∧ commandByteOk 0x80#8 = true := by decide

/-! ### Decoding: words from R71, R74 and R77, bit 31 first -/

theorem test_decode_cson : decodeWord 0b00000001_00000000_00000000_00000000#32 = .ok .cson := by decide
theorem test_decode_csoff : decodeWord 0b00000010_00000000_00000000_00000000#32 = .ok .csoff := by decide
theorem test_decode_wrbyte : decodeWord 0b00000011_00000000_00000000_10000001#32 = .ok (.wrbyte 0x81#8) := by decide
theorem test_decode_rdbyte : decodeWord 0b00000100_00000000_00000000_00000000#32 = .ok .rdbyte := by decide
theorem test_decode_wrreg :
    decodeWord 0b00010000_10001110_00000000_01010101#32 = .ok (.wrreg 0x8E#8 0x55#8) := by decide
theorem test_decode_rdreg : decodeWord 0b00010001_10001101_00000000_00000000#32 = .ok (.rdreg 0x8D#8) := by decide
theorem test_decode_start : decodeWord 0b00010010_00000000_00000000_00000000#32 = .ok .start := by decide
theorem test_decode_bcdenc : decodeWord 0b00100000_00000000_11111111_11111110#32 = .ok (.bcdenc (-2)) := by decide
theorem test_decode_bcddec : decodeWord 0b00100001_00000000_00000000_01000111#32 = .ok (.bcddec 0x47#8) := by decide
theorem test_decode_csrrd : decodeWord 0b00110000_00000011_00000000_00000000#32 = .ok (.csrrd 0x03#8) := by decide
theorem test_decode_sec :
    decodeCommandByte 0b1_0_00000_0#8 = .ok .secW ∧ decodeCommandByte 0b1_0_00000_1#8 = .ok .secR := by decide
theorem test_decode_min :
    decodeCommandByte 0b1_0_00001_0#8 = .ok .minW ∧ decodeCommandByte 0b1_0_00001_1#8 = .ok .minR := by decide
theorem test_decode_hr :
    decodeCommandByte 0b1_0_00010_0#8 = .ok .hrW ∧ decodeCommandByte 0b1_0_00010_1#8 = .ok .hrR := by decide
theorem test_decode_date :
    decodeCommandByte 0b1_0_00011_0#8 = .ok .dateW ∧ decodeCommandByte 0b1_0_00011_1#8 = .ok .dateR := by decide
theorem test_decode_mon :
    decodeCommandByte 0b1_0_00100_0#8 = .ok .monW ∧ decodeCommandByte 0b1_0_00100_1#8 = .ok .monR := by decide
theorem test_decode_dow :
    decodeCommandByte 0b1_0_00101_0#8 = .ok .dowW ∧ decodeCommandByte 0b1_0_00101_1#8 = .ok .dowR := by decide
theorem test_decode_yr :
    decodeCommandByte 0b1_0_00110_0#8 = .ok .yrW ∧ decodeCommandByte 0b1_0_00110_1#8 = .ok .yrR := by decide
theorem test_decode_wp_tc_ram_burst :
    decodeCommandByte 0b1_0_00111_0#8 = .ok .wpW ∧ decodeCommandByte 0b1_0_01000_0#8 = .ok .tcW ∧
    decodeCommandByte 0b1_1_00000_0#8 = .ok .ramW ∧ decodeCommandByte 0b1_0_11111_0#8 = .ok .burst := by decide
/-- V49 to V51: no such opcode. -/
theorem test_decode_unknown_opcode :
    decodeWord 0x00000000#32 = .error (.unknownOpcode 0x00#8) ∧ decodeWord 0xFFFFFFFF#32 = .error (.unknownOpcode 0xFF#8) ∧
    decodeWord 0x05000000#32 = .error (.unknownOpcode 0x05#8) := by decide
/-- V52 to V56: a reserved bit. -/
theorem test_decode_reserved_bits :
    decodeWord 0x01000001#32 = .error (.reservedBitSet 0x01000001#32) ∧
    decodeWord 0x03000100#32 = .error (.reservedBitSet 0x03000100#32) ∧
    decodeWord 0x10800100#32 = .error (.reservedBitSet 0x10800100#32) ∧
    decodeWord 0x20010000#32 = .error (.reservedBitSet 0x20010000#32) ∧
    decodeWord 0x30000001#32 = .error (.reservedBitSet 0x30000001#32) := by decide
/-- R54: bytes next to the table's. -/
theorem test_decode_reserved_bytes :
    decodeCommandByte 0x8F#8 = .error (.reservedCommandByte 0x8F#8) ∧
    decodeCommandByte 0x91#8 = .error (.reservedCommandByte 0x91#8) ∧
    decodeCommandByte 0xC1#8 = .error (.reservedCommandByte 0xC1#8) ∧
    decodeCommandByte 0x00#8 = .error (.reservedCommandByte 0x00#8) := by decide
theorem test_decode_table_word :
    decodeTableWord 32 0x11810000 = some (.rdreg 0x81#8) ∧ decodeTableWord 8 0xBE = some .burst ∧
    decodeTableWord 32 0x00000000 = none ∧ decodeTableWord 8 0x8F = none := by decide

/-! ### Reset and the step -/

/-- "From reset": every CSR 0 (spec/95_test_vectors.md, Notation). -/
theorem test_reset_csrs : csrs State.reset = (0x00000000#32, 0x00000000#32, 0x00000000#32) ∧
    State.reset.rxbuf = 0x00#8 ∧ State.reset.result = 0#32 := by decide
/-- R22: nothing issued, nothing done. -/
theorem test_step_waits : nextOf (step State.reset) = some State.reset := rfl
/-- V1 by its word. -/
theorem test_step_cson :
    ((nextOf (step ((quietReset 1).withFetchWord 32 0x01000000))).map
      fun t => (answered 0#4 0#32 t, t.trace, statusWord t, t.hostPc)) = some (true, [.ce true], 0x01#32, 1) := by decide
/-- V51. -/
theorem test_step_illegal_word :
    ((nextOf (step (State.reset.withFetchWord 32 0x05000000))).map
      fun t => (answered 1#4 0#32 t, t.trace, csrs t)) = some (true, [], 0x120#32, 0#32, 0x05000000#32) := by decide
/-- V49: the first-error word 0 with FEV = 1. -/
theorem test_step_zero_word :
    ((nextOf (step (State.reset.withFetchWord 32 0))).map csrs) = some (0x120#32, 0#32, 0#32) := by decide
/-- V64: `FATAL` before decoding. -/
theorem test_step_illegal_word_when_fatal :
    ((nextOf (step (fatalState.withFetchWord 32 0x05000000))).map fun t => (answered 15#4 0#32 t, t.flags)) =
      some (true, fatalState.flags) := by decide
/-- A reserved command byte alone (notes/assumptions/2.md). -/
theorem test_step_reserved_byte :
    step (State.reset.withFetchWord 8 0x8F) = .refused (.reservedCommandByte 0x8F#8) := rfl

/-! ### Transport -/

/-- V1. -/
theorem test_cson_opens :
    leaves .cson (quietReset 1) (fun t => answered 0#4 0#32 t && t.trace == [.ce true] && csrs t == (0x01#32, 0#32, 0#32)) := by
  decide
/-- V2. -/
theorem test_cson_twice :
    leaves .cson (opened State.reset emptyWindow)
      (fun t => answered 5#4 0#32 t && t.trace == [] && csrs t == (0x821#32, 0#32, 0x01000000#32)) := by decide
/-- V3. -/
theorem test_csoff_no_window :
    leaves .csoff State.reset
      (fun t => answered 4#4 0#32 t && t.trace == [] && csrs t == (0x820#32, 0#32, 0x02000000#32)) := by decide
/-- V14: a lone byte that is not 0xBE; the window is closed all the same. -/
theorem test_csoff_lone_byte :
    leaves .csoff (opened { quietReset 1 with pins := { sclkLvl := false, ceAsserted := true, ioDir := .out, ioOut := true } }
        (window 1#2 0b000#3 0x80#8))
      (fun t => answered 7#4 0#32 t && t.trace == [.ce false] && statusWord t == 0x202A#32 && winWord t == 0x8001#32) := by
  decide
/-- V4, V11 to V13, V15, V17 to V20: the shapes. -/
theorem test_shapes :
    (window 0#2 0b000#3 0x00#8).validShape = false ∧ (window 2#2 0b000#3 0x80#8).validShape = true ∧
    (window 2#2 0b010#3 0x81#8).validShape = true ∧ (window 1#2 0b000#3 0xBE#8).validShape = true ∧
    (window 3#2 0b000#3 0x80#8).validShape = false ∧ (window 2#2 0b010#3 0x80#8).validShape = false ∧
    (window 2#2 0b000#3 0x81#8).validShape = false ∧ (window 2#2 0b011#3 0x00#8).validShape = false ∧
    (window 2#2 0b000#3 0x92#8).validShape = true := by decide
/-- S7 and V6. -/
theorem test_wrbyte_s7 :
    leaves (.wrbyte 0x80#8) (opened (quietReset 25) emptyWindow)
      (fun t => answered 0#4 0#32 t && statusWord t == 0x0B#32 && winWord t == 0x8001#32 &&
        t.trace == [.dir .out, .io false, .clk true, .clk false, .io false, .clk true, .clk false,
          .io false, .clk true, .clk false, .io false, .clk true, .clk false, .io false, .clk true, .clk false,
          .io false, .clk true, .clk false, .io false, .clk true, .clk false, .io true, .clk true, .clk false]) := by decide
/-- V5. -/
theorem test_wrbyte_no_window :
    leaves (.wrbyte 0x80#8) State.reset
      (fun t => answered 4#4 0#32 t && t.trace == [] && csrs t == (0x820#32, 0#32, 0x03000080#32)) := by decide
/-- V16: the tracker saturates. -/
theorem test_tracker_saturates :
    (window 3#2 0b000#3 0x80#8).append false 0x00#8 = window 3#2 0b000#3 0x80#8 ∧
    (window 0#2 0b000#3 0x00#8).append true 0x47#8 = window 1#2 0b001#3 0x00#8 := by decide
/-- V9. -/
theorem test_rdbyte_v9 :
    leaves .rdbyte (opened (answering 25 0x47#8) emptyWindow)
      (fun t => answered 0#4 0x47#32 t && t.rxbuf == 0x47#8 && t.result == 0x47#32 && statusWord t == 0x01#32 &&
        winWord t == 0x0005#32 &&
        t.trace == [.dir .inp, .smp true, .clk true, .clk false, .smp true, .clk true, .clk false,
          .smp true, .clk true, .clk false, .smp false, .clk true, .clk false, .smp false, .clk true, .clk false,
          .smp false, .clk true, .clk false, .smp true, .clk true, .clk false, .smp false, .clk true, .clk false]) := by decide
/-- R120: a byte cut short writes neither RXBUF nor RESULT nor the tracker. -/
theorem test_rdbyte_cut_short :
    leaves .rdbyte (opened (failing 24) emptyWindow)
      (fun t => answered 15#4 0#32 t && t.rxbuf == 0x00#8 && t.result == 0#32 && t.win == emptyWindow && t.pins.sclkLvl) := by
  decide

/-! ### Framer -/

/-- V22. -/
theorem test_wrreg_v22 :
    leaves (.wrreg 0x80#8 0x30#8) (quietReset 52)
      (fun t => answered 0#4 0#32 t && statusWord t == 0x02#32 && winWord t == 0x8002#32 && t.trace.length == 52) := by decide
/-- V60: the fifth pin operation fails. -/
theorem test_wrreg_v60 :
    leaves (.wrreg 0x80#8 0x30#8) (failing 4)
      (fun t => answered 15#4 0#32 t && t.trace == [.ce true, .dir .out, .io false, .clk true] &&
        csrs t == (0x37#32, 0#32, 0x10800030#32)) := by decide
/-- V27: 5 wins over 3. -/
theorem test_wrreg_priority :
    leaves (.wrreg 0x81#8 0x00#8) (opened State.reset emptyWindow)
      (fun t => answered 5#4 0#32 t && statusWord t == 0x821#32) := by decide
/-- V25, V26. -/
theorem test_wrreg_refuses :
    leaves (.wrreg 0x81#8 0x00#8) State.reset (fun t => answered 3#4 0#32 t && csrs t == (0x420#32, 0#32, 0x10810000#32)) ∧
    leaves (.wrreg 0xBE#8 0x00#8) State.reset (fun t => answered 3#4 0#32 t && statusWord t == 0x420#32) := by decide
/-- S5 and V28. -/
theorem test_rdreg_v28 :
    leaves (.rdreg 0x81#8) (answering 52 0x47#8)
      (fun t => answered 0#4 47#32 t && statusWord t == 0x08#32 && t.rxbuf == 0x47#8 && t.result == 0x2F#32 &&
        winWord t == 0x810A#32 && t.trace.length == 52) := by decide
/-- V65: the first SMP fails. -/
theorem test_rdreg_v65 :
    leaves (.rdreg 0x81#8) (failing 27)
      (fun t => answered 15#4 0#32 t && csrs t == (0x39#32, 0x8101#32, 0x11810000#32) && t.rxbuf == 0x00#8 &&
        t.result == 0#32 && t.trace.length == 27) := by decide
/-- V29 (0xFF) and V30. -/
theorem test_rdreg_v29_v30 :
    leaves (.rdreg 0x8D#8) (answering 52 0xFF#8) (fun t => answered 0#4 165#32 t && t.rxbuf == 0xFF#8) ∧
    leaves (.rdreg 0x8F#8) State.reset (fun t => answered 3#4 0#32 t) := by decide
/-- V31. -/
theorem test_start_v31 :
    leaves .start (quietReset 27)
      (fun t => answered 0#4 0#32 t && csrs t == (0x0A#32, 0xBE01#32, 0#32) && t.trace.length == 27 &&
        clockedLevels false t.trace == [false, true, true, true, true, true, false, true]) := by decide
/-- V32. -/
theorem test_start_in_window :
    leaves .start (opened State.reset emptyWindow) (fun t => answered 5#4 0#32 t && statusWord t == 0x821#32) := by decide

/-! ### BCD -/

/-- S1, V34 to V36. -/
theorem test_bcdenc_values :
    leaves (.bcdenc 0) State.reset (fun t => answered 0#4 0x00#32 t) ∧
    leaves (.bcdenc 59) State.reset (fun t => answered 0#4 0x59#32 t && t.result == 0x59#32 && t.trace == []) ∧
    leaves (.bcdenc 99) State.reset (fun t => answered 0#4 0x99#32 t) ∧
    leaves (.bcdenc 10) State.reset (fun t => answered 0#4 0x10#32 t) := by decide
/-- S2, V37 to V39. -/
theorem test_bcdenc_refuses :
    leaves (.bcdenc 100) { State.reset with result := 0x59#32 }
      (fun t => answered 2#4 0#32 t && csrs t == (0x220#32, 0#32, 0x20000064#32) && t.result == 0x59#32) ∧
    leaves (.bcdenc (-1)) State.reset (fun t => answered 2#4 0#32 t && t.flags.firstErr == 0x2000FFFF#32) ∧
    leaves (.bcdenc 0x8000#16) State.reset (fun t => answered 2#4 0#32 t) := by decide
/-- V40 to V45. -/
theorem test_bcddec_values :
    leaves (.bcddec 0x47#8) State.reset (fun t => answered 0#4 47#32 t && t.result == 47#32) ∧
    bcdValue 0x0A#8 = 10#8 ∧ bcdValue 0x1A#8 = 20#8 ∧ bcdValue 0xA0#8 = 100#8 ∧ bcdValue 0xFF#8 = 165#8 ∧
    bcdValue 0x80#8 = 80#8 := by decide

/-! ### Control -/

/-- V47, V57 and V62: a register is answered, RESULT kept, and FATAL is no bar. -/
theorem test_csrrd_answers :
    leaves (.csrrd 0x00#8) State.reset (fun t => answered 0#4 0#32 t) ∧
    leaves (.csrrd 0x02#8) { State.reset with result := 0x30#32 } (fun t => answered 0#4 0x30#32 t && t.result == 0x30#32) ∧
    leaves (.csrrd 0x04#8) fatalState (fun t => answered 0#4 0x10800030#32 t && t.flags == fatalState.flags) := by decide
/-- V48, and V63 but for its pins, which stand at reset here. -/
theorem test_csrrd_unimplemented :
    leaves (.csrrd 0x05#8) State.reset (fun t => answered 1#4 0#32 t && csrs t == (0x120#32, 0#32, 0x30050000#32)) ∧
    leaves (.csrrd 0x05#8) fatalState
      (fun t => answered 1#4 0#32 t && statusWord t == 0x130#32 && t.flags.firstErr == 0x10800030#32) := by decide
/-- V59: the first error alone is recorded. -/
theorem test_first_error_stays :
    leaves (.wrreg 0x81#8 0x00#8)
      { State.reset with flags := { State.reset.flags with eWin := true, fev := true, firstErr := 0x02000000#32 } }
      (fun t => answered 3#4 0#32 t && csrs t == (0xC20#32, 0#32, 0x02000000#32)) := by decide
/-- V61. -/
theorem test_fatal_refuses : leaves .cson fatalState (fun t => answered 15#4 0#32 t && t.trace == []) := by decide
/-- R226: "A command refused with error 15 because FATAL is already 1 changes nothing at all", whatever the other flags. -/
theorem test_fatal_refusal_changes_no_flag :
    let s := { State.reset with flags := { State.reset.flags with fatal := true } }
    leaves .cson s (fun t => answered 15#4 0#32 t && t.flags == s.flags && t.hostPc == 1) := by decide

/-! ### Command bytes: each is the transport of its byte (R71, R117; notes/assumptions/1.md) -/

/-- The events of one byte sent, its bits from R71's constant. -/
def sends (i : Instr) (b : Byte) : Bool :=
  leaves i (opened (quietReset 25) emptyWindow)
    (fun t => answered 0#4 0#32 t && t.trace == txEvents b && t.win == window 1#2 0b000#3 b)

theorem test_send_sec : sends .secW 0x80#8 ∧ sends .secR 0x81#8 := by decide
theorem test_send_min : sends .minW 0x82#8 ∧ sends .minR 0x83#8 := by decide
theorem test_send_hr : sends .hrW 0x84#8 ∧ sends .hrR 0x85#8 := by decide
theorem test_send_date : sends .dateW 0x86#8 ∧ sends .dateR 0x87#8 := by decide
theorem test_send_mon : sends .monW 0x88#8 ∧ sends .monR 0x89#8 := by decide
theorem test_send_dow : sends .dowW 0x8A#8 ∧ sends .dowR 0x8B#8 := by decide
theorem test_send_yr : sends .yrW 0x8C#8 ∧ sends .yrR 0x8D#8 := by decide
theorem test_send_wp_tc_ram_burst :
    sends .wpW 0x8E#8 ∧ sends .tcW 0x90#8 ∧ sends .ramW 0xC0#8 ∧ sends .burst 0xBE#8 := by decide
theorem test_command_byte_no_window : leaves .secW State.reset (fun t => answered 4#4 0#32 t && t.trace == []) := by decide

/-! ### Façade, assembler, peer -/

/-- V46. -/
theorem test_dec : dec 47 = ['4', '7'] ∧ dec 5 = ['5'] ∧ dec 0 = ['0'] ∧ dec 165 = ['1', '6', '5'] := by decide
/-- S6. -/
theorem test_read_year :
    (match readField .year (answering 52 0x24#8) with
      | .ok text t => text == ['2', '0', '2', '4'] && t.hostPc == 1
      | .failed _ _ => false
      | .noEncoding _ => false
      | .stopped => false) = true := by decide
/-- R186 and R193: a year that is not of 4 digits. -/
theorem test_write_year_refused :
    (match setDate 0 0 999 25 60 60 0 State.reset with
      | .failed e t => e == 2#4 && t.hostPc == 0 && t.trace == []
      | .ok _ _ => false
      | .noEncoding _ => false
      | .stopped => false) = true := by decide
/-- R150, R198: bit 7 of the byte written is 0 for 0..79, and with R150's formula 1 for 80..99 (notes/assumptions/20.md). -/
theorem test_bcd_halt_bit : ∀ v : Fin 100, (bcdPack (v.val : Int)).getLsbD 7 = decide (80 ≤ v.val) := by decide
/-- S8: the guards of R182. -/
theorem test_guards :
    Field.guard .hours 25 = false ∧ Field.guard .hours 23 = false ∧ Field.guard .hours 22 = true ∧
    Field.guard .day 0 = false ∧ Field.guard .weekday 7 = true ∧ Field.guard .minutes (-1) = false := by decide
/-- R83 to R85, with the words of program P1. -/
theorem test_assembler :
    assembleWords "BCDENC 30 ; tens and units".toList = .ok [0x2000001E#32] ∧
    assembleWords "WRREG SEC_W, 0x30".toList = .ok [0x10800030#32] ∧
    assembleWords "PWRREG 0x80, 48".toList = .ok [0x108E0000#32, 0x10800030#32, 0x108E0080#32] ∧
    assembleWords "RAWRD SEC_R".toList = .ok [0x01000000#32, 0x03000081#32, 0x04000000#32, 0x02000000#32] := by decide
theorem test_assembler_errors :
    assembleWords "WRBYTE 256".toList = .error .operandOutOfRange ∧
    assembleWords "WRBYTE -1".toList = .error .operandOutOfRange ∧
    assembleWords "BCDENC -1".toList = .ok [0x2000FFFF#32] ∧
    assembleWords "BCDENC 32768".toList = .error .operandOutOfRange ∧
    assembleWords "CSON 1".toList = .error .wrongNumberOfOperands ∧
    assembleWords "MOVE 1".toList = .error .unknownMnemonic := by decide

/-- A peer whose registers are `0x59` and whose shadow copy is 0, with no ticks, no gate elsewhere and no stray writes. -/
def draws59 : PeerDraws :=
  { powerUp := fun _ _ => 0x59#8, shadow := Vector.replicate 8 0x00#8, tick := fun _ _ x => x, gatesOther := fun _ _ _ => false, stray := fun _ => { writes := [], shadow := none, desync := false } }

/-- R251 and P2: the read is answered from the peer's register. -/
theorem test_peer_answers :
    leaves (.rdreg 0x81#8) (answering 52 0x59#8)
      (fun t => (RefPeer.powerUp draws59).agrees draws59 t.trace && t.result == 59#32) ∧
    leaves (.rdreg 0x81#8) (answering 52 0x58#8)
      (fun t => !(RefPeer.powerUp draws59).agrees draws59 t.trace) := by decide
/-- R247, R248 and P1: write-protect is cleared, then the seconds are set. -/
theorem test_peer_takes_write :
    let events (a d : Byte) : List Event := .ce true :: (txEvents a ++ (txEvents d ++ [.ce false]))
    let p := (RefPeer.powerUp draws59).observeAll draws59 (events 0x8E#8 0x00#8 ++ events 0x80#8 0x30#8)
    p.reg .clock 0#5 = 0x30#8 ∧ p.reg .clock 7#5 = 0x00#8 ∧ p.reg .clock 1#5 = 0x59#8 ∧ p.desync = false := by decide
/-- R247: armed, the write of seconds is ignored. -/
theorem test_peer_gate :
    let events (a d : Byte) : List Event := .ce true :: (txEvents a ++ (txEvents d ++ [.ce false]))
    let p := (RefPeer.powerUp draws59).observeAll draws59 (events 0x8E#8 0x80#8 ++ events 0x80#8 0x30#8)
    p.reg .clock 0#5 = 0x59#8 ∧ p.reg .clock 7#5 = 0x80#8 := by decide
/-- R251: the answers of a window that proves invalid, T R R here, are free draws. -/
theorem test_peer_answers_valid_windows_only :
    let read := rxEvents (bitsLsb 0x00#8)
    let p := RefPeer.powerUp draws59
    p.agrees draws59 (.ce true :: (txEvents 0x81#8 ++ (read ++ (read ++ [.ce false])))) = true ∧
    p.agrees draws59 (.ce true :: (txEvents 0x81#8 ++ (read ++ [.ce false]))) = false := by decide
/-- R82, R54 and V20: what a window with a byte outside the enumeration does is a draw, and so are its answers (U6). -/
theorem test_peer_outside_enumeration :
    let d := { draws59 with stray := fun _ => { writes := [(.clock, 9#5, 0x11#8)], shadow := none, desync := false } }
    let p := RefPeer.powerUp d
    let q := p.observeAll d (.ce true :: (txEvents 0x92#8 ++ (txEvents 0x00#8 ++ [.ce false])))
    q.reg .clock 9#5 = 0x11#8 ∧ q.reg .clock 0#5 = 0x59#8 ∧ q.desync = false ∧
    p.agrees d (.ce true :: (txEvents 0xC1#8 ++ (rxEvents (bitsLsb 0x00#8) ++ [.ce false]))) = true := by decide
/-- R252: while desynchronized a lone 0xBE latches nothing of itself. -/
theorem test_peer_desync_shadow :
    let d := { draws59 with
      stray := fun _ => { writes := [], shadow := some (Vector.replicate 8 0x22#8), desync := false } }
    let one (a : Byte) : List Event := .ce true :: (txEvents a ++ [.ce false])
    let p := (RefPeer.powerUp d).observeAll d (one 0x80#8 ++ one 0xBE#8)
    p.shadow = Vector.replicate 8 0x22#8 ∧ p.desync = true := by decide
/-- R250 and R252. -/
theorem test_peer_burst_and_desync :
    let one (a : Byte) : List Event := .ce true :: (txEvents a ++ [.ce false])
    ((RefPeer.powerUp draws59).observeAll draws59 (one 0xBE#8)).shadow = Vector.replicate 8 0x59#8 ∧
    ((RefPeer.powerUp draws59).observeAll draws59 (one 0xBE#8)).desync = false ∧
    ((RefPeer.powerUp draws59).observeAll draws59 (one 0x80#8)).desync = true := by decide

/-! ### Witnesses: the hypotheses of each statement hold together somewhere -/

/-- What a witness of `exec i s = .next t` needs. -/
theorem runs (i : Instr) (s : State) : ∃ t, exec i s = .next t := by cases i <;> exact ⟨_, rfl⟩

theorem quietReset_quiet (n : Nat) : (quietReset n).quiet n := by
  intro k hk
  simp [State.failsAt, quietReset, Draws.fails, State.reset, State.construct, hk]

theorem failing_firstFailsAt (k : Nat) : (failing k).firstFailsAt k := by
  constructor
  · intro j hj
    simp [State.failsAt, failing, Draws.fails, State.reset, State.construct, List.getElem?_append, hj]
  · simp [State.failsAt, failing, Draws.fails, State.reset, State.construct, Config.defaultParams]

/-- A closed window, not fatal, and the pin operations of any command written down as succeeding. -/
theorem quietReset_ready :
    (quietReset 364).flags.fatal = false ∧ (quietReset 364).pins.ceAsserted = false ∧ (quietReset 364).quiet 364 :=
  ⟨rfl, rfl, quietReset_quiet 364⟩

theorem witness_EncodeOfDecodeIsTheIssue :
    decode (.word 0x10800030#32) = .ok (.wrreg 0x80#8 0x30#8) ∧ decode (.commandByte 0xBE#8) = .ok .burst ∧
    decodeWord 0x30FF0000#32 = .ok (.csrrd 0xFF#8) := by decide

theorem witness_DecoderFollowsMatchAndMask :
    (0x01000000#32 &&& 0xFFFFFFFF#32 = 0x01000000#32) ∧ (0x02000000#32 &&& 0xFFFFFFFF#32 = 0x02000000#32) ∧
    (0x030000FF#32 &&& 0xFFFFFF00#32 = 0x03000000#32) ∧ (0x04000000#32 &&& 0xFFFFFFFF#32 = 0x04000000#32) ∧
    (0x10FF00FF#32 &&& 0xFF00FF00#32 = 0x10000000#32) ∧ (0x11FF0000#32 &&& 0xFF00FFFF#32 = 0x11000000#32) ∧
    (0x12000000#32 &&& 0xFFFFFFFF#32 = 0x12000000#32) ∧ (0x2000FFFF#32 &&& 0xFFFF0000#32 = 0x20000000#32) ∧
    (0x210000FF#32 &&& 0xFFFFFF00#32 = 0x21000000#32) ∧ (0x30FF0000#32 &&& 0xFF00FFFF#32 = 0x30000000#32) := by decide

/-- A word of no row, next to one. -/
theorem witness_DecoderFollowsMatchAndMask_rejected :
    let w : Word := 0x01000001#32
    (w &&& 0xFFFFFFFF#32) ∉ [0x01000000#32, 0x02000000#32, 0x04000000#32, 0x12000000#32] ∧
    (w &&& 0xFFFFFF00#32) ∉ [0x03000000#32, 0x21000000#32] ∧ (w &&& 0xFF00FF00#32) ≠ 0x10000000#32 ∧
    (w &&& 0xFF00FFFF#32) ∉ [0x11000000#32, 0x30000000#32] ∧ (w &&& 0xFFFF0000#32) ≠ 0x20000000#32 := by decide

theorem witness_CommandBytesFollowTheLayout :
    commandByteOf .secW = some 0x80#8 ∧ commandByteOf .burst = some 0xBE#8 ∧ 0xC0#8 ∈ wset ∧ 0x8D#8 ∈ rset := by decide

theorem witness_StepRunsTheDecodedInstruction :
    (State.reset.withFetchWord 32 0x12000000).pending = [.word 0x12000000#32] ∧
    decode (.word 0x12000000#32) = .ok .start ∧ State.reset.pending = [] := by decide

/-- The clauses at their edges: a word next to a CSRRD word, an illegal word, CSRRD 0x05 and 0x04. -/
theorem witness_PrologueChecksFatalThenDecoding :
    (fatalState.withFetchWord 32 0x30000001).pending = [.word 0x30000001#32] ∧ fatalState.flags.fatal = true ∧
    (0x30000001#32 &&& 0xFF00FFFF#32 ≠ 0x30000000#32) ∧
    State.reset.flags.fatal = false ∧ decodeWord 0x00000000#32 = .error (.unknownOpcode 0x00#8) ∧
    (0x30050000#32 &&& 0xFF00FFFF#32 = 0x30000000#32) ∧ 0x04 < ((0x30050000#32 : Word).extractLsb' 16 8).toNat ∧
    ¬ 0x04 < ((0x30040000#32 : Word).extractLsb' 16 8).toNat := by decide

/-- One command for each error. -/
theorem witness_RefusedCommandOnlyRecordsItsError :
    refusedWith .cson fatalState = some .pinFault ∧ refusedWith (.csrrd 0x05#8) State.reset = some .illegalCommand ∧
    refusedWith .rdbyte State.reset = some .windowClosed ∧ refusedWith .secR State.reset = some .windowClosed ∧
    refusedWith (.wrreg 0x81#8 0#8) (opened State.reset emptyWindow) = some .windowOpen ∧
    refusedWith (.rdreg 0xBF#8) State.reset = some .invalidRegister ∧
    refusedWith (.bcdenc 100) State.reset = some .invalidArgument := by decide

theorem witness_FatalBlockAnswersOnlyCsrrd :
    fatalState.flags.fatal = true ∧ (0x00#8).toNat ≤ 4 ∧ (0x04#8).toNat ≤ 4 ∧ ∀ n, Instr.cson ≠ .csrrd n :=
  ⟨rfl, by decide, by decide, fun _ => by simp⟩

theorem witness_CsrrdOfUnimplementedNumberIsIllegal : 0x05 ≤ (0x05#8).toNat ∧ 0x05 ≤ (0xFF#8).toNat := by decide

theorem witness_FramerRefusesBytesOutsideTheEnumeration :
    State.reset.flags.fatal = false ∧ State.reset.pins.ceAsserted = false ∧
    0xBE#8 ∉ [0x80#8, 0x82#8, 0x84#8, 0x86#8, 0x88#8, 0x8A#8, 0x8C#8, 0x8E#8, 0x90#8, 0xC0#8] ∧
    0x8F#8 ∉ [0x81#8, 0x83#8, 0x85#8, 0x87#8, 0x89#8, 0x8B#8, 0x8D#8] := by decide

theorem witness_DirectionErrorIsNeverRaised : ∃ t, exec (.rdreg 0x81#8) (quietReset 52) = .next t := runs _ _

theorem witness_CsonOpensAWindow :
    (quietReset 1).flags.fatal = false ∧ (quietReset 1).pins.ceAsserted = false ∧ (quietReset 1).quiet 1 := by decide

/-- Both ends of CSOFF: a valid shape and an invalid one. -/
theorem witness_CsoffClosesTheWindow :
    let s := opened (quietReset 1) (window 2#2 0b010#3 0x81#8)
    s.flags.fatal = false ∧ s.pins.ceAsserted = true ∧ s.quiet 1 ∧ s.win.validShape = true ∧
    (opened (quietReset 1) emptyWindow).win.validShape = false := by decide

theorem witness_CsoffKeepsTheTracker : ∃ t, exec .csoff (opened (quietReset 1) emptyWindow) = .next t := runs _ _

theorem witness_WrbyteSendsOneByte :
    let s := opened (quietReset 25) emptyWindow
    s.flags.fatal = false ∧ s.pins.ceAsserted = true ∧ s.quiet 25 := by decide

theorem witness_RdbyteReceivesOneByte :
    let s := opened (answering 25 0x47#8) emptyWindow
    s.flags.fatal = false ∧ s.pins.ceAsserted = true ∧ s.quiet 25 := by decide

theorem witness_CommandByteIsSent :
    let s := opened (quietReset 25) emptyWindow
    commandByteOf .ramW = some 0xC0#8 ∧ s.flags.fatal = false ∧ s.pins.ceAsserted = true ∧ s.quiet 25 := by decide

/-- Below the saturation, at its edge, and saturated. -/
theorem witness_TrackerAppendsOneByte :
    (window 0#2 0#3 0#8).len.toNat < 3 ∧ (window 2#2 0#3 0#8).len.toNat < 3 ∧ (window 3#2 0#3 0#8).len.toNat = 3 := by decide

theorem witness_WrregWritesOneRegister :
    (quietReset 52).flags.fatal = false ∧ (quietReset 52).pins.ceAsserted = false ∧
    0x80#8 ∈ [0x80#8, 0x82#8, 0x84#8, 0x86#8, 0x88#8, 0x8A#8, 0x8C#8, 0x8E#8, 0x90#8, 0xC0#8] ∧ (quietReset 52).quiet 52 := by
  decide

theorem witness_RdregReadsOneRegister :
    (answering 52 0x47#8).flags.fatal = false ∧ (answering 52 0x47#8).pins.ceAsserted = false ∧
    0x8D#8 ∈ [0x81#8, 0x83#8, 0x85#8, 0x87#8, 0x89#8, 0x8B#8, 0x8D#8] ∧ (answering 52 0x47#8).quiet 52 := by decide

theorem witness_RawSequencesEmitTheFramedEvents :
    (quietReset 52).flags.fatal = false ∧ (quietReset 52).pins.ceAsserted = false ∧ 0x80#8 ∈ wset ∧ 0x81#8 ∈ rset ∧
    (quietReset 52).quiet 52 := by decide

theorem witness_StartSendsTheBurstByte :
    (quietReset 27).flags.fatal = false ∧ (quietReset 27).pins.ceAsserted = false ∧ (quietReset 27).quiet 27 := by decide

/-- With a success among the responses: V22. -/
theorem witness_FramedCommandsMakeValidWindows :
    (∃ a d, Instr.wrreg 0x80#8 0x30#8 = .wrreg a d) ∧ (∃ t, exec (.wrreg 0x80#8 0x30#8) (quietReset 52) = .next t) ∧
    leaves (.wrreg 0x80#8 0x30#8) (quietReset 52) (fun t => answered 0#4 0#32 t) = true :=
  ⟨⟨_, _, rfl⟩, runs _ _, by decide⟩

/-- The edges of the range. -/
theorem witness_BcdencEncodesOrRefuses :
    State.reset.flags.fatal = false ∧ (0 ≤ (0#16).toInt ∧ (0#16).toInt ≤ 99) ∧ (0 ≤ (99#16).toInt ∧ (99#16).toInt ≤ 99) ∧
    ((100#16).toInt < 0 ∨ 99 < (100#16).toInt) ∧ ((0xFFFF#16).toInt < 0 ∨ 99 < (0xFFFF#16).toInt) := by decide

theorem witness_BcddecDecodesEveryByte : State.reset.flags.fatal = false := by decide

theorem witness_BcdRoundTrip :
    State.reset.flags.fatal = false ∧ 0 ≤ (99#16).toInt ∧ (99#16).toInt ≤ 99 ∧
    (∃ t, exec (.bcdenc 99#16) State.reset = .next t) ∧ ∃ t, exec (.bcdenc 20#16) State.reset = .next t :=
  ⟨rfl, by decide, by decide, runs _ _, runs _ _⟩

theorem witness_CsrrdReadsTheBlockRegisters :
    (0x00#8).toNat ≤ 4 ∧ (0x01#8).toNat ≤ 4 ∧ (0x02#8).toNat ≤ 4 ∧ (0x03#8).toNat ≤ 4 ∧ (0x04#8).toNat ≤ 4 := by decide

theorem witness_EveryCommandFrame : ∃ t, exec .start (quietReset 27) = .next t := runs _ _

theorem witness_CodecAndCsrrdFrame :
    (∃ n, Instr.csrrd 0x02#8 = .csrrd n) ∧ (∃ v, Instr.bcdenc 59 = .bcdenc v) ∧
    (∃ t, exec (.csrrd 0x02#8) State.reset = .next t) ∧ ∃ t, exec (.bcdenc 59) State.reset = .next t :=
  ⟨⟨_, rfl⟩, ⟨_, rfl⟩, runs _ _, runs _ _⟩

theorem witness_SendingCommandsFrame :
    (commandByteOf .tcW).isSome = true ∧ ∃ t, exec .tcW (opened (quietReset 25) emptyWindow) = .next t :=
  ⟨rfl, runs _ _⟩

theorem witness_TransportPinFrame :
    (∃ t, exec .rdbyte (opened (quietReset 25) emptyWindow) = .next t) ∧ (∃ t, exec .cson (quietReset 1) = .next t) ∧
    (∃ t, exec .csoff (opened (quietReset 1) (window 2#2 0b010#3 0x81#8)) = .next t) ∧
    (∃ t, exec (.wrbyte 0x80#8) (opened (quietReset 25) emptyWindow) = .next t) ∧
    (commandByteOf .secW).isSome = true ∧ ∃ t, exec .secW (opened (quietReset 25) emptyWindow) = .next t :=
  ⟨runs _ _, runs _ _, runs _ _, runs _ _, rfl, runs _ _⟩

/-- An error after a first one, and a first error. -/
theorem witness_StickyBitsAreNeverCleared :
    (∃ t, exec .csoff fatalState = .next t) ∧ fatalState.flags.fev = true ∧ fatalState.flags.fatal = true ∧
    State.reset.flags.fev = false ∧ leaves .csoff State.reset (fun t => t.flags.fev) = true :=
  ⟨runs _ _, rfl, rfl, rfl, by decide⟩

theorem witness_CompletedCommandEmitsItsEvents :
    refusedWith (.rdreg 0x81#8) (answering 52 0x47#8) = none ∧
    (answering 52 0x47#8).quiet (commandEvents (.rdreg 0x81#8) (answering 52 0x47#8)).length := by decide

/-- V60, V65 and the last pin operation. -/
theorem witness_PinFaultKeepsTheEventsBeforeIt :
    refusedWith (.wrreg 0x80#8 0x30#8) (failing 4) = none ∧
    4 < (commandEvents (.wrreg 0x80#8 0x30#8) (failing 4)).length ∧ (failing 4).firstFailsAt 4 ∧
    refusedWith (.rdreg 0x81#8) (failing 27) = none ∧ (failing 27).firstFailsAt 27 ∧
    refusedWith .start (failing 26) = none ∧ 26 < (commandEvents .start (failing 26)).length ∧
    (failing 26).firstFailsAt 26 := by decide

/-- At each edge of the tracker's clauses. -/
theorem witness_TrackerHoldsOnlyCompletedBytes :
    refusedWith (.wrreg 0x80#8 0x30#8) (failing 0) = none ∧ (failing 0).firstFailsAt 0 ∧ (failing 1).firstFailsAt 1 ∧
    (failing 25).firstFailsAt 25 ∧ (failing 26).firstFailsAt 26 ∧ (failing 50).firstFailsAt 50 ∧
    (failing 51).firstFailsAt 51 ∧ refusedWith (.rdreg 0x81#8) (failing 51) = none ∧
    refusedWith .start (failing 26) = none ∧ refusedWith .cson (failing 0) = none ∧
    refusedWith .csoff (opened (failing 0) emptyWindow) = none ∧ refusedWith .secW (opened (failing 24) emptyWindow) = none ∧
    refusedWith .rdbyte (opened (failing 24) emptyWindow) = none ∧ (opened (failing 24) emptyWindow).firstFailsAt 24 := by
  decide

theorem witness_NoPinFaultWithoutTheParameter :
    infallible.params.pinFaults = false ∧ infallible.flags.fatal = false ∧ ∃ t, exec (.wrreg 0x80#8 0x30#8) infallible = .next t :=
  ⟨rfl, rfl, runs _ _⟩

/-- Reset with a command issued meets every invariant, and takes a step. -/
theorem witness_StepKeepsTheInvariants :
    let s := (quietReset 52).withFetchWord 32 0x10800030
    s.PinsFollowTrace ∧ s.ClockIdle ∧ s.FlagsConsistent ∧ s.TrackerConsistent ∧ s.ResponsesConsistent ∧
      ∃ t, step s = .next t :=
  ⟨by decide, by decide, by decide, by decide, by decide, _, rfl⟩

theorem witness_StepNeverRebindsThePins : ∃ t, step State.reset = .next t := ⟨_, rfl⟩

/-- A command that reads, and one that does not. -/
theorem witness_PeerReachesOnlyWhatIsRead :
    (∃ t, exec (.rdreg 0x81#8) (answering 52 0x47#8) = .next t) ∧ (∃ t, exec .start (answering 27 0x47#8) = .next t) ∧
    Instr.start ≠ .rdbyte ∧ ∀ a, Instr.start ≠ .rdreg a := ⟨runs _ _, runs _ _, by simp, fun _ => by simp⟩

theorem witness_StickyBitsChangeNoResult :
    (∀ n, Instr.start ≠ .csrrd n) ∧
    ({ State.reset.flags with eIll := true, fev := true } : Flags).fatal = (quietReset 27).flags.fatal ∧
    ∃ t, exec .start (quietReset 27) = .next t := ⟨fun _ => by simp, rfl, runs _ _⟩

theorem witness_ReferencePeerAnswersARead :
    let s := answering 52 0x59#8
    let p := RefPeer.powerUp draws59
    s.flags.fatal = false ∧ s.pins.ceAsserted = false ∧ 0x81#8 ∈ rset ∧ s.quiet 52 ∧ p.desync = false ∧
    leaves (.rdreg 0x81#8) s (fun t => p.agrees draws59 (t.trace.drop s.trace.length)) = true := by decide

/-- A write that the gate lets through, and one that it does not. -/
theorem witness_ReferencePeerTakesAWrite :
    (RefPeer.powerUp draws59).desync = false ∧ 0x8E#8 ∈ wset ∧ 0x80#8 ∈ wset ∧
    ((RefPeer.powerUp draws59).setReg .clock 7#5 0x80#8).armed = true := by decide

/-- Both ends of the range of the fields and of the years. -/
theorem witness_FieldWriteMakesThreeTransactions :
    ((Field.seconds, 0x80#8) ∈ [(Field.seconds, 0x80#8), (.minutes, 0x82#8), (.hours, 0x84#8), (.day, 0x86#8),
        (.month, 0x88#8), (.weekday, 0x8A#8)] ∧ (0 : Int) ≤ 0 ∧ (99 : Int) ≤ 99) ∧
    ((1000 : Int) ≤ 1000 ∧ (0 : Int) = 1000 % 100 ∧ (9999 : Int) ≤ 9999 ∧ (99 : Int) = 9999 % 100) ∧
    (quietReset 156).flags.fatal = false ∧ (quietReset 156).pins.ceAsserted = false ∧ (quietReset 156).quiet 156 :=
  ⟨by decide, by decide, rfl, rfl, quietReset_quiet 156⟩

theorem witness_OutOfRangeFieldWriteEmitsNothing :
    Field.hours ≠ .year ∧ (-32768 : Int) ≤ 100 ∧ (100 : Int) ≤ 32767 ∧ ((100 : Int) < 0 ∨ (99 : Int) < 100) ∧
    ((-1 : Int) < 0 ∨ (99 : Int) < -1) ∧ State.reset.flags.fatal = false := by decide

theorem witness_WriteYearTakesTheLowTwoDigits :
    ((999 : Int) < 1000 ∨ (9999 : Int) < 999) ∧ ((10000 : Int) < 1000 ∨ (9999 : Int) < 10000) ∧
    ((1000 : Int) ≤ 1000 ∧ (1000 : Int) ≤ 9999) ∧ ((1000 : Int) ≤ 9999 ∧ (9999 : Int) ≤ 9999) := by decide

theorem witness_FieldReadFormatsTheRegister :
    (Field.year, 0x8D#8) ∈ [(Field.seconds, 0x81#8), (.minutes, 0x83#8), (.hours, 0x85#8), (.day, 0x87#8),
      (.month, 0x89#8), (.weekday, 0x8B#8), (.year, 0x8D#8)] ∧
    (answering 52 0x24#8).flags.fatal = false ∧ (answering 52 0x24#8).pins.ceAsserted = false ∧
    (answering 52 0x24#8).quiet 52 := by decide

theorem witness_GetDateReadsSevenFieldsInOrder :
    (quietReset 364).flags.fatal = false ∧ (quietReset 364).pins.ceAsserted = false ∧ (quietReset 364).quiet 364 :=
  quietReset_ready

/-- A year that is skipped, and both ends of the years that are written. -/
theorem witness_SetDateWritesEachGuardedFieldInOrder :
    ((0 : Int) < 0 → (1000 : Int) ≤ 0 ∧ (0 : Int) ≤ 9999) ∧ ((0 : Int) < 1000 → (1000 : Int) ≤ 1000 ∧ (1000 : Int) ≤ 9999) ∧
    ((0 : Int) < 9999 → (1000 : Int) ≤ 9999 ∧ (9999 : Int) ≤ 9999) ∧ (quietReset 1092).flags.fatal = false ∧
    (quietReset 1092).pins.ceAsserted = false ∧ (quietReset 1092).quiet 1092 :=
  ⟨by decide, by decide, by decide, rfl, rfl, quietReset_quiet 1092⟩

/-- The years next to those of 4 digits after one field, and a pin fault at each end of one field's events. -/
theorem witness_SetDateStopsAtTheFirstError :
    ((0 : Int) < 999 ∧ ((999 : Int) < 1000 ∨ (9999 : Int) < 999)) ∧
    ((0 : Int) < 10000 ∧ ((10000 : Int) < 1000 ∨ (9999 : Int) < 10000)) ∧
    (fieldWriteEvents 0x86#8 1).length = 156 ∧ (quietReset 156).quiet 156 ∧ (quietReset 156).flags.fatal = false ∧
    (failing 0).firstFailsAt 0 ∧ (failing 155).firstFailsAt 155 ∧ (failing 155).flags.fatal = false ∧
    (failing 155).pins.ceAsserted = false :=
  ⟨by decide, by decide, by simp [fieldWriteEvents, writeEvents, txEvents, bitsLsb], quietReset_quiet 156, rfl, failing_firstFailsAt 0,
    failing_firstFailsAt 155, rfl, rfl⟩

theorem witness_FailingGuardIssuesNothing : Field.guard .hours 23 = false ∧ Field.guard .month 13 = false := by decide

theorem witness_DecimalStringIsUnpadded : '5' ∈ dec 165 ∧ (165 : Nat) ≠ 0 := by decide

end Sys2Proof.Tests
end

section
/-! Family 00_scope: what a command and a step leave of the parameters (spec/00_scope.md R10, R11). -/

namespace Sys2Proof.Proofs

open Sys2Proof Sys2Proof.Machine Sys2Proof.Laws

/-- A command refused while FATAL is 1 is only answered (R226, R229). -/
@[simp] theorem answeredFatal_params (s : State) : s.answeredFatal.params = s.params := rfl

/-- An error's bookkeeping writes the flags and the response alone (R226). -/
@[simp] theorem answeredError_params (s : State) (e : ErrorCode) (w : Word) :
    (s.answeredError e w).params = s.params := rfl

/-- However a command ends, the parameters are what they were (R10, R11). -/
theorem ends_params {i : Instr} {s t : State} (h : Ends i s t) : t.params = s.params := by
  cases h with
  | fatal _ ht => rw [ht, answeredFatal_params]
  | refused _ _ _ ht => rw [ht, answeredError_params]
  | done _ _ _ _ _ hm hu _ ht =>
    obtain ⟨hparams, -⟩ := hu.fields
    rw [ht, respond_params, hparams, hm.params]
  | frame _ _ _ _ _ hm _ ht => rw [ht, respond_params, setFlags_params, hm.params]
  | fault _ _ _ _ _ hm _ ht => rw [ht, respond_params, setFlags_params, hm.params]

/-- No instruction rebinds the pins or changes another parameter (R11). -/
theorem exec_params {i : Instr} {s t : State} (h : exec i s = .next t) : t.params = s.params :=
  ends_params (exec_inversion h)

/-- Settles O47: a step waits, executes one instruction, or answers an illegal word, and each keeps the parameters. -/
theorem stepNeverRebindsThePins : Obligations.StepNeverRebindsThePins := by
  intro s t h
  obtain ⟨-, rfl⟩ | ⟨_, _, _, -, -, hexec⟩ | ⟨_, _, _, -, -, rfl⟩ := step_inversion h
  · rfl
  · rw [exec_params hexec, setPending_params]
  · split
    · rw [answeredFatal_params, setPending_params]
    · rw [answeredError_params, setPending_params]

end Sys2Proof.Proofs
end

section
/-! Family 10_state: the block's fields and line levels at reset (spec/10_state.md R39). -/

namespace Sys2Proof.Proofs

open Sys2Proof Sys2Proof.Machine

/-- A deasserted chip-select stands at the inactive level of its line (R25). -/
theorem ceLine_of_deasserted {s : State} (h : s.pins.ceAsserted = false) : ceLine s = !s.params.ceActive := by
  simp [ceLine, h]

/-- While the data pin is an input the block drives no level onto the line (R26, R27). -/
theorem drivenLevel_of_input {s : State} (h : s.pins.ioDir = .inp) : drivenLevel s = none := by
  simp [drivenLevel, h]

/-- Settles O1: the fields are those `State.construct` writes, and the line levels follow from the reset pins. -/
theorem resetHoldsEveryStatedValue : Obligations.ResetHoldsEveryStatedValue := by
  intro p
  have hce : ceLine (State.construct p) = !p.ceActive := ceLine_of_deasserted rfl
  have hio : drivenLevel (State.construct p) = none := drivenLevel_of_input rfl
  exact ⟨rfl, rfl, rfl, rfl, rfl, hce, hio, rfl, rfl, rfl⟩

end Sys2Proof.Proofs
end

section
/-! Family 40_transport: the direction of the data pin in a command's events (spec/40_transport.md R107), the valid window
shapes and the tracker at CSOFF (R109, R115), and the bytes that WRBYTE sends and RDBYTE receives (R118, R121). -/

namespace Sys2Proof.Proofs

open Sys2Proof Sys2Proof.Machine Sys2Proof.Laws

/-! ### The direction error -/

/-- `DIRECTION` alone has the code 6 (R220). -/
theorem num_eq_six_iff (e : ErrorCode) : e.num = 6#4 ↔ e = .direction := by
  cases e <;> decide

/-- However a command ends, E_DIR is what it was (R107): no check finds `DIRECTION` and no body raises it. -/
theorem ends_eDir {i : Instr} {s t : State} (h : Ends i s t) : t.flags.eDir = s.flags.eDir := by
  cases h with
  | fatal _ ht => rw [ht]; rfl
  | refused e hr _ ht =>
    have he : e ≠ .direction := fun he => refusedWith_ne_direction i s (he ▸ hr)
    simp [ht, State.answeredError, he]
  | done _ _ _ _ _ hm hu _ ht =>
    obtain ⟨-, -, -, hflags, -⟩ := hu.fields
    rw [ht, respond_flags, hflags, hm.flags]
  | frame _ _ _ _ _ hm _ ht => simp [ht, hm.flags]
  | fault _ _ _ _ _ hm _ ht => simp [ht, hm.flags]

/-- However a command ends, it gives one response, and not with the code 6 (R22, R107). -/
theorem ends_response_ne_direction {i : Instr} {s t : State} (h : Ends i s t) :
    ∃ r, t.responses = s.responses ++ [r] ∧ r.e ≠ 6#4 := by
  cases h with
  | fatal _ ht => exact ⟨_, by rw [ht]; rfl, by decide⟩
  | refused e hr _ ht =>
    have he : e ≠ .direction := fun he => refusedWith_ne_direction i s (he ▸ hr)
    exact ⟨_, by rw [ht]; rfl, mt (num_eq_six_iff e).1 he⟩
  | done _ _ _ _ _ hm hu _ ht =>
    obtain ⟨-, -, -, -, -, -, hresponses, -⟩ := hu.fields
    exact ⟨_, by rw [ht, respond_responses, hresponses, hm.responses], by simp⟩
  | frame _ _ _ _ _ hm _ ht =>
    exact ⟨_, by rw [ht, respond_responses, setFlags_responses, hm.responses], by decide⟩
  | fault _ _ _ _ _ hm _ ht =>
    exact ⟨_, by rw [ht, respond_responses, setFlags_responses, hm.responses], by decide⟩

/-- However a command ends, what it has emitted is a beginning of its event list (R105, R226, R232). -/
theorem ends_trace {i : Instr} {s t : State} (h : Ends i s t) :
    ∃ k, t.trace = s.trace ++ (commandEvents i s).take k := by
  cases h with
  | fatal _ ht => exact ⟨0, by rw [ht, List.take_zero, List.append_nil]; rfl⟩
  | refused _ _ _ ht => exact ⟨0, by rw [ht, List.take_zero, List.append_nil]; rfl⟩
  | done _ _ _ _ _ hm hu _ ht =>
    obtain ⟨-, -, -, -, -, -, -, htrace, -⟩ := hu.fields
    exact ⟨_, by rw [ht, respond_trace, htrace, hm.trace, List.take_length]⟩
  | frame _ _ hi _ _ hm _ ht =>
    subst hi
    exact ⟨1, by rw [ht, respond_trace, setFlags_trace, hm.trace]; rfl⟩
  | fault _ k _ _ _ hm _ ht => exact ⟨k, by rw [ht, respond_trace, setFlags_trace, hm.trace]⟩

/-- The event list of every command is legal from every pin state: each byte begins with the `DIR` event its own `IO` or
`SMP` events need (R107, R118, R121). -/
theorem eventsLegal_commandEvents (i : Instr) (s : State) (p : Pins) : eventsLegal p (commandEvents i s) = true := by
  cases i
  case cson | csoff | bcdenc | bcddec | csrrd => rfl
  case rdbyte => exact eventsLegal_rxEvents s p
  case wrreg a d =>
    simp [commandEvents, writeEvents, eventsLegal, Event.legalAt, eventsLegal_append, eventsLegal_txEvents]
  case rdreg a =>
    simp [commandEvents, readEvents, eventsLegal, Event.legalAt, eventsLegal_append, eventsLegal_txEvents,
      eventsLegal_rxEvents]
  case start => simp [commandEvents, eventsLegal, Event.legalAt, eventsLegal_append, eventsLegal_txEvents]
  all_goals exact eventsLegal_txEvents _ p

/-- Settles O13: of the ways a command ends none is `DIRECTION`, and its events are a beginning of a list that is legal
from every pin state. -/
theorem directionErrorIsNeverRaised : Obligations.DirectionErrorIsNeverRaised := by
  intro i s t h
  have hends := exec_inversion h
  obtain ⟨k, htrace⟩ := ends_trace hends
  exact ⟨ends_eDir hends, ends_response_ne_direction hends, _, htrace,
    fun p => eventsLegal_take p _ k (eventsLegal_commandEvents i s p)⟩

/-! ### The window tracker -/

/-- Settles O16: CSOFF is refused, or its one pin operation fails, or it deasserts chip-select, and none of these writes
the tracker. -/
theorem csoffKeepsTheTracker : Obligations.CsoffKeepsTheTracker := by
  intro s t h
  have hopen (hr : refusedWith .csoff s = none) : s.pins.ceAsserted = true :=
    needsWindow_none (refusedWith_none hr).2
  cases exec_inversion h with
  | fatal _ ht => rw [ht]; rfl
  | refused _ _ _ ht => rw [ht]; rfl
  | done hr hq _ u _ _ _ hb ht =>
    have hu : u = s.countOp.emit (.ce false) := by
      rw [bodyOf, csoffBody_quiet s (hopen hr) hq] at hb
      split at hb <;> cases hb
      rfl
    simp [ht, hu]
  | frame _ _ _ _ _ _ hw ht => simp [ht, hw]
  | fault hr k hk hf u _ hb ht =>
    obtain rfl : k = 0 := by simpa [commandEvents] using hk
    have hu : u = s.countOp := by
      rw [bodyOf, csoffBody_fault s (hopen hr) hf.2] at hb
      cases hb
      rfl
    simp [ht, hu]

/-- Settles O21: the three disjuncts of `valid_shape`, read as propositions. -/
theorem validShapesAreTheThree : Obligations.ValidShapesAreTheThree := by
  intro w
  simp only [Window.validShape, burstByte, Bool.or_eq_true, Bool.and_eq_true, beq_iff_eq, Bool.not_eq_true', or_assoc,
    and_assoc]

/-! ### A byte and its bits -/

/-- Bit `k` of the byte of some bits is the `k`-th of them (R56). -/
theorem getLsbD_byteOfBits (bits : List Bool) (k : Nat) :
    (byteOfBits bits).getLsbD k = (decide (k < 8) && bits.getD k false) := by
  induction bits generalizing k with
  | nil => simp [byteOfBits]
  | cons b bits ih =>
    have hcons : byteOfBits (b :: bits) = byteOfBits bits <<< 1 ||| (BitVec.ofBool b).zeroExtend 8 := rfl
    rw [hcons]
    cases k with
    | zero => cases b <;> simp
    | succ k =>
      by_cases hk : k + 1 < 8
      · simpa [hk, Nat.lt_of_succ_lt hk] using ih k
      · simp [hk]

/-- The byte a read gets has the peer's `k`-th answer as its bit `k` (R103, R121). -/
theorem getLsbD_answeredByte (s : State) {k : Nat} (hk : k < 8) :
    s.answeredByte.getLsbD k = s.draws.answer (s.smpCount + k) := by
  rw [State.answeredByte, getLsbD_byteOfBits]
  interval_cases k <;> rfl

/-- The bits of the byte a read gets, in the order they travel, are the peer's answers (R56, R121). -/
theorem bitsLsb_answeredByte (s : State) : bitsLsb s.answeredByte = s.answeredBits := by
  simp only [bitsLsb, State.answeredBits, List.map, getLsbD_answeredByte, Nat.reduceLT]

/-! ### Bytes sent and received -/

/-- The levels at the rising edges of a byte sent are its bits, in order, whatever the line stood at (R118). -/
theorem clockedLevels_txEvents (l : Bool) (x : Byte) : clockedLevels l (txEvents x) = bitsLsb x := by
  simp [txEvents, bitsLsb, clockedLevels]

/-- The body of WRBYTE, run to its end under any command word (R117, R118). -/
theorem execute_wrbyteBody {w : Word} {d : Byte} {s : State} (hf : s.flags.fatal = false)
    (hc : s.pins.ceAsserted = true) (hq : s.quiet 25) :
    execute w false (wrbyteBody d) s =
      { s with
        pins := { s.pins with sclkLvl := false, ioDir := .out, ioOut := d.getLsbD 7 }
        win := s.win.append false d
        trace := s.trace ++ txEvents d
        opCount := s.opCount + 25 }.answeredValue 0#32 := by
  rw [← txEvents_length d] at hq
  obtain ⟨_, t, hb, hm, rfl, hw, hs⟩ := (wrbyteBody_plays d s hc).quiet hq
  rw [execute_done (by simp [hf]) hb, hm.eq, hw, hs, foldl_txEvents, txEvents_length]
  rfl

/-- The body of RDBYTE, run to its end under any command word (R120, R121). -/
theorem execute_rdbyteBody {w : Word} {s : State} (hf : s.flags.fatal = false)
    (hc : s.pins.ceAsserted = true) (hq : s.quiet 25) :
    execute w false rdbyteBody s =
      { s with
        pins := { s.pins with sclkLvl := false, ioDir := .inp }
        rxbuf := s.answeredByte
        result := s.answeredByte.zeroExtend 32
        win := s.win.append true s.answeredByte
        trace := s.trace ++ rxEvents s.answeredBits
        opCount := s.opCount + 25
        smpCount := s.smpCount + 8 }.answeredValue (s.answeredByte.zeroExtend 32) := by
  rw [← rxEvents_length s] at hq
  obtain ⟨_, t, hr, hm, rfl, hw, hs⟩ := (rx_plays s).quiet hq
  have hb : rdbyteBody s =
      .done (zext32 s.answeredByte) ((t.setRxbuf s.answeredByte).setResult (zext32 s.answeredByte)) := by
    rw [rdbyteBody_eq s hc, hr, bind_done]
  rw [execute_done (by simp [hf]) hb, hm.eq, hw, hs, foldl_rxEvents, rxEvents_length]
  rfl

/-- Settles O17: the body's events and next state, with the levels the clock takes from `txEvents`. -/
theorem wrbyteSendsOneByte : Obligations.WrbyteSendsOneByte := by
  intro d s hf hc hq
  refine ⟨?_, rfl, txEvents_length d, fun l => clockedLevels_txEvents l d⟩
  rw [exec_eq]
  exact congrArg _ (execute_wrbyteBody hf hc hq)

/-- Settles O18: the byte is that of the next eight answers, whose bits are those answers. -/
theorem rdbyteReceivesOneByte : Obligations.RdbyteReceivesOneByte := by
  intro s hf hc hq
  refine ⟨s.answeredByte, fun _ => getLsbD_answeredByte s, ?_, rxEvents_length s, ?_⟩
  · rw [← bitsLsb_answeredByte s]
    rfl
  · rw [exec_eq]
    exact congrArg _ (execute_rdbyteBody hf hc hq)

end Sys2Proof.Proofs
end

section
/-! Family 41_framer: what WRREG and RDREG refuse (spec/41_framer.md R134), the register that WRREG writes (R131), and the
windows that the framed commands make (R132). -/

namespace Sys2Proof.Proofs

open Sys2Proof Sys2Proof.Machine Sys2Proof.Laws

/-! ### Bytes outside the enumeration -/

/-- A command that its own check refuses only records its error and answers, while FATAL is 0 (R226, R229). -/
theorem exec_of_checkError {i : Instr} {s : State} {e : ErrorCode} (hf : s.flags.fatal = false)
    (hc : checkError i s = some e) : exec i s = .next (s.answeredError e (hcwOf i)) := by
  rw [exec_eq, execute_refused (by simp [hf]) (body_refused i s e hc)]

/-- WRREG in a closed window checks its byte against WSET alone (R130, R230). -/
theorem checkError_wrreg {s : State} (hc : s.pins.ceAsserted = false) (a d : Byte) :
    checkError (.wrreg a d) s = if a ∈ wset then none else some .invalidRegister := by
  simp [checkError, needsNoWindow, hc]

/-- RDREG in a closed window checks its byte against RSET alone (R136, R230). -/
theorem checkError_rdreg {s : State} (hc : s.pins.ceAsserted = false) (a : Byte) :
    checkError (.rdreg a) s = if a ∈ rset then none else some .invalidRegister := by
  simp [checkError, needsNoWindow, hc]

/-- Settles O12: the check on the byte is the only one left, and a check's error comes before any event. -/
theorem framerRefusesBytesOutsideTheEnumeration : Obligations.FramerRefusesBytesOutsideTheEnumeration := by
  intro a d s hf hc
  constructor
  · intro ha
    exact exec_of_checkError hf ((checkError_wrreg hc a d).trans (if_neg ha))
  · intro ha
    exact exec_of_checkError hf ((checkError_rdreg hc a).trans (if_neg ha))

/-! ### The tracker of a framed window -/

/-- One byte sent into an empty window: `T` (R108). -/
theorem emptyWindow_append_sent (a : Byte) :
    emptyWindow.append false a = { len := 1#2, seq := 0b000#3, first := a } := by
  simp [emptyWindow, Window.append, setSeqBit]

/-- A second byte, sent: `T T` (R108). -/
theorem emptyWindow_append_sent_sent (a d : Byte) :
    (emptyWindow.append false a).append false d = { len := 2#2, seq := 0b000#3, first := a } := by
  rw [emptyWindow_append_sent]
  simp [Window.append, setSeqBit]

/-- A second byte, received: `T R` (R108). -/
theorem emptyWindow_append_sent_received (a d : Byte) :
    (emptyWindow.append false a).append true d = { len := 2#2, seq := 0b010#3, first := a } := by
  rw [emptyWindow_append_sent]
  simp [Window.append, setSeqBit]

/-! ### The register that WRREG writes -/

/-- The levels at the rising edges of a byte sent are its bits, and the line then stands at its last (R118). -/
theorem clockedLevels_txEvents_append (l : Bool) (x : Byte) (es : List Event) :
    clockedLevels l (txEvents x ++ es) = bitsLsb x ++ clockedLevels (x.getLsbD 7) es := by
  simp [txEvents, bitsLsb, clockedLevels]

/-- The levels at the rising edges of a framed write are the bits of its two bytes: neither edge of the window is a clock
edge (R131). -/
theorem clockedLevels_writeEvents (l : Bool) (a d : Byte) :
    clockedLevels l (writeEvents a d) = bitsLsb a ++ bitsLsb d := by
  simp [writeEvents, clockedLevels, clockedLevels_txEvents_append]

/-- 1 + 25 + 25 + 1 events (R131). -/
theorem writeEvents_length (a d : Byte) : (writeEvents a d).length = 52 := by
  simp [writeEvents, txEvents_length]

/-- The pins after a framed write: the window closed, the last data bit on the line (R131, R138). -/
theorem foldl_writeEvents (a d : Byte) (p : Pins) :
    (writeEvents a d).foldl Event.onPins p =
      { sclkLvl := false, ceAsserted := false, ioDir := .out, ioOut := d.getLsbD 7 } := by
  simp [writeEvents, foldl_txEvents, Event.onPins]

/-- The body of WRREG, run to its end under any command word (R130, R131). -/
theorem execute_wrregBody {w : Word} {a d : Byte} {s : State} (hf : s.flags.fatal = false)
    (hc : s.pins.ceAsserted = false) (ha : a ∈ wset) (hq : s.quiet 52) :
    execute w false (wrregBody a d) s =
      { s with
        pins := { sclkLvl := false, ceAsserted := false, ioDir := .out, ioOut := d.getLsbD 7 }
        win := { len := 2#2, seq := 0b000#3, first := a }
        trace := s.trace ++ writeEvents a d
        opCount := s.opCount + 52 }.answeredValue 0#32 := by
  have hplays := wrregBody_plays a d s hc ha
  rw [← writeEvents] at hplays
  rw [← writeEvents_length a d] at hq
  obtain ⟨_, t, hb, hm, rfl, hw, hs⟩ := hplays.quiet hq
  rw [execute_done (by simp [hf]) hb, hm.eq, hw, hs, foldl_writeEvents, writeEvents_length,
    emptyWindow_append_sent_sent]
  rfl

/-- Settles O22: the body's events and next state, with the levels the clock takes from `writeEvents`. -/
theorem wrregWritesOneRegister : Obligations.WrregWritesOneRegister := by
  intro a d s hf hc ha hq
  refine ⟨?_, writeEvents_length a d, fun l => clockedLevels_writeEvents l a d⟩
  rw [exec_eq]
  exact congrArg _ (execute_wrregBody hf hc ha hq)

/-! ### The windows of the framed commands -/

/-- `FRAME_VIOLATION` alone has the code 7 (R220). -/
theorem num_eq_seven_iff (e : ErrorCode) : e.num = 7#4 ↔ e = .frameViolation := by
  cases e <;> decide

/-- 0 is the code of success and of no error (R220). -/
theorem num_ne_zero (e : ErrorCode) : e.num ≠ 0#4 := by
  cases e <;> decide

/-- No check finds an invalid shape: CSOFF looks at it after its event (R113). -/
theorem checkError_ne_frameViolation (i : Instr) (s : State) : checkError i s ≠ some .frameViolation := by
  cases i <;> simp [checkError, needsWindow, needsNoWindow, ite_eq_iff]

/-- No command is refused with `FRAME_VIOLATION` before its first event. -/
theorem refusedWith_ne_frameViolation (i : Instr) (s : State) : refusedWith i s ≠ some .frameViolation := by
  unfold refusedWith
  split
  · simp
  · exact checkError_ne_frameViolation i s

/-- However a command ends, it gives one response: with the code 7 only from CSOFF, and with the code 0 only when its body
has run to its end (R113, R220). -/
theorem ends_response {i : Instr} {s t : State} (h : Ends i s t) :
    ∃ r, t.responses = s.responses ++ [r] ∧ (r.e = 7#4 → i = .csoff) ∧
      (r.e = 0#4 → ∃ v u, bodyOf i s = .done v u ∧ t = u.respond 0#4 v) := by
  cases h with
  | fatal _ ht => exact ⟨_, by rw [ht]; rfl, by simp, by simp⟩
  | refused e hr _ ht =>
    have he : e ≠ .frameViolation := fun he => refusedWith_ne_frameViolation i s (he ▸ hr)
    exact ⟨_, by rw [ht]; rfl, fun h7 => absurd ((num_eq_seven_iff e).1 h7) he, fun h0 => absurd h0 (num_ne_zero e)⟩
  | done _ _ _ u v hm hu hb ht =>
    obtain ⟨-, -, -, -, -, -, hresponses, -⟩ := hu.fields
    exact ⟨_, by rw [ht, respond_responses, hresponses, hm.responses], by simp, fun _ => ⟨v, u, hb, ht⟩⟩
  | frame _ _ hi _ _ hm _ ht =>
    exact ⟨_, by rw [ht, respond_responses, setFlags_responses, hm.responses], fun _ => hi, by simp⟩
  | fault _ _ _ _ _ hm _ ht =>
    exact ⟨_, by rw [ht, respond_responses, setFlags_responses, hm.responses], by simp, by simp⟩

/-- A micro-sequence that returns has met no failing pin operation, and returns as `Plays` says. -/
theorem plays_done {α : Type} {r : Run α} {s u : State} {evs : List Event} {w : Nat → Window} {P : α → State → Prop}
    {v : α} (h : Plays r s evs w P) (hr : r = .done v u) : P v u := by
  obtain hq | ⟨k, hk, hf⟩ := quiet_or_firstFailsAt s evs.length
  · obtain ⟨_, _, hdone, -, hP⟩ := h.quiet hq
    cases hr.symm.trans hdone
    exact hP
  · obtain ⟨_, hraised, -⟩ := h.fault k hk hf
    cases hr.symm.trans hraised

/-- A body that returns was refused by no check. -/
theorem checkError_of_done {i : Instr} {s u : State} {v : Word} (hb : bodyOf i s = .done v u) :
    checkError i s = none := by
  cases hc : checkError i s with
  | none => rfl
  | some e => cases hb.symm.trans (body_refused i s e hc)

/-- Where a closed window and a listed byte are all a command needs, it has both when no check refuses it. -/
theorem needsNoWindow_mem {s : State} {a : Byte} {bytes : List Byte} {e : ErrorCode}
    (h : needsNoWindow s (if a ∈ bytes then none else some e) = none) : s.pins.ceAsserted = false ∧ a ∈ bytes := by
  obtain ⟨hc, ha⟩ := needsNoWindow_none h
  exact ⟨hc, by by_contra hn; simp [hn] at ha⟩

/-- A write command byte has direction bit 0 (R70, R81). -/
theorem getLsbD_zero_of_mem_wset : ∀ a ∈ wset, a.getLsbD 0 = false := by decide

/-- A read command byte has direction bit 1 (R70, R81). -/
theorem getLsbD_zero_of_mem_rset : ∀ a ∈ rset, a.getLsbD 0 = true := by decide

/-- A successful WRREG leaves the window `T T` of a write command byte (R130, R132). -/
theorem wrreg_done_win {a d : Byte} {s u : State} {v : Word} (hb : bodyOf (.wrreg a d) s = .done v u) :
    u.win = { len := 2#2, seq := 0b000#3, first := a } ∧ a.getLsbD 0 = false := by
  obtain ⟨hc, ha⟩ := needsNoWindow_mem (checkError_of_done hb)
  obtain ⟨-, hw, -⟩ := plays_done (wrregBody_plays a d s hc ha) hb
  exact ⟨hw.trans (emptyWindow_append_sent_sent a d), getLsbD_zero_of_mem_wset a ha⟩

/-- A successful RDREG leaves the window `T R` of a read command byte (R132, R136). -/
theorem rdreg_done_win {a : Byte} {s u : State} {v : Word} (hb : bodyOf (.rdreg a) s = .done v u) :
    u.win = { len := 2#2, seq := 0b010#3, first := a } ∧ a.getLsbD 0 = true := by
  obtain ⟨hc, ha⟩ := needsNoWindow_mem (checkError_of_done hb)
  rw [bodyOf, rdregBody_eq a s hc ha] at hb
  cases hr : rdregEvents a s with
  | raised e t => rw [hr] at hb; cases hb
  | done raw t =>
    obtain ⟨-, hw, -⟩ := plays_done (rdregEvents_plays a s) hr
    rw [hr, bind_done] at hb
    cases hb
    exact ⟨hw.trans (emptyWindow_append_sent_received a _), getLsbD_zero_of_mem_rset a ha⟩

/-- A successful START leaves the window `T` of the burst command byte (R132, R141). -/
theorem start_done_win {s u : State} {v : Word} (hb : bodyOf .start s = .done v u) :
    u.win = { len := 1#2, seq := 0b000#3, first := 0xBE#8 } := by
  obtain ⟨hc, -⟩ := needsNoWindow_none (checkError_of_done hb)
  obtain ⟨-, hw, -⟩ := plays_done (startBody_plays s hc) hb
  exact hw.trans (emptyWindow_append_sent _)

/-- Settles O26: only CSOFF answers with error 7, and the tracker of each framed command that succeeds is one of the three
valid shapes. -/
theorem framedCommandsMakeValidWindows : Obligations.FramedCommandsMakeValidWindows := by
  intro i s t hi h
  obtain ⟨r, hresponses, h7, h0⟩ := ends_response (exec_inversion h)
  refine ⟨r, hresponses, ?_, fun hr => ?_⟩
  · obtain rfl | ⟨a, d, rfl⟩ | ⟨a, rfl⟩ := hi <;> exact fun he => nomatch h7 he
  · obtain ⟨v, u, hb, rfl⟩ := h0 hr
    rw [respond_win]
    obtain rfl | ⟨a, d, rfl⟩ | ⟨a, rfl⟩ := hi
    · have hw := start_done_win hb
      have hv : u.win.validShape = true := by rw [hw]; rfl
      exact ⟨hv, nofun, nofun, fun _ => hw⟩
    · obtain ⟨hw, ha⟩ := wrreg_done_win hb
      have hv : u.win.validShape = true := by rw [hw]; exact (validShapesAreTheThree _).2 (.inl ⟨rfl, rfl, ha⟩)
      exact ⟨hv, fun _ _ heq => by cases heq; exact ⟨hw, ha⟩, nofun, nofun⟩
    · obtain ⟨hw, ha⟩ := rdreg_done_win hb
      have hv : u.win.validShape = true := by rw [hw]; exact (validShapesAreTheThree _).2 (.inr (.inl ⟨rfl, rfl, ha⟩))
      exact ⟨hv, nofun, fun _ heq => by cases heq; exact ⟨hw, ha⟩, nofun⟩

end Sys2Proof.Proofs
end

section
/-! Family 42_bcd: the packed byte that BCDENC gives, and its decoding (spec/42_bcd.md R150, R153, R155). -/

namespace Sys2Proof.Proofs

open Sys2Proof Sys2Proof.Machine Sys2Proof.Laws

/-- The low nibble of a byte (R153). -/
theorem toNat_and_low_nibble (x : Byte) : (x &&& 0x0F#8).toNat = x.toNat % 16 := by
  rw [BitVec.toNat_and]
  exact Nat.and_two_pow_sub_one_eq_mod x.toNat 4

/-- `bcd_value` of any byte: 165 at most, so nothing is lost in 8 bits (R153, R158). -/
theorem toNat_bcdValue (x : Byte) : (bcdValue x).toNat = x.toNat / 16 * 10 + x.toNat % 16 := by
  have htens : ((x >>> 4) &&& 0x0F#8).toNat = x.toNat / 16 := by
    rw [toNat_and_low_nibble, BitVec.toNat_ushiftRight, Nat.shiftRight_eq_div_pow]
    omega
  rw [bcdValue, BitVec.toNat_add, BitVec.toNat_mul, htens, toNat_and_low_nibble, BitVec.toNat_ofNat]
  omega

/-- The packed byte of an integer 0..99 has the tens in its high nibble and the units in its low nibble (R150). -/
theorem toNat_bcdPack {v : Int} (h0 : 0 ≤ v) (h99 : v ≤ 99) :
    ((bcdPack v).toNat : Int) = v / 10 * 16 + v % 10 := by
  have htens : (BitVec.ofInt 8 (v / 10)).toNat = (v / 10).toNat := by rw [BitVec.toNat_ofInt]; omega
  have hunits : (BitVec.ofInt 8 (v % 10)).toNat = (v % 10).toNat := by rw [BitVec.toNat_ofInt]; omega
  have hlow : (v % 10).toNat < 2 ^ 4 := by omega
  have hhigh : (v / 10).toNat <<< 4 < 2 ^ 8 := by rw [Nat.shiftLeft_eq]; omega
  rw [bcdPack, BitVec.toNat_or, BitVec.toNat_shiftLeft, htens, hunits, Nat.mod_eq_of_lt hhigh,
    ← Nat.shiftLeft_add_eq_or_of_lt hlow, Nat.shiftLeft_eq]
  omega

/-- Decoding the packed byte of an integer 0..99 gives the integer: `(v / 10) * 10 + v % 10 = v` (R155). -/
theorem toNat_bcdValue_bcdPack {v : Int} (h0 : 0 ≤ v) (h99 : v ≤ 99) : ((bcdValue (bcdPack v)).toNat : Int) = v := by
  have hpack := toNat_bcdPack h0 h99
  rw [toNat_bcdValue]
  omega

/-- A byte widened to a word has the byte as its low 8 bits (R12). -/
@[simp] theorem setWidth_zext32 (b : Byte) : (zext32 b).setWidth 8 = b := by
  simp [zext32]

/-- The range check passes exactly on 0..99 (R150). -/
theorem bcdInRange_iff (v : Int) : bcdInRange v = true ↔ 0 ≤ v ∧ v ≤ 99 := by
  simp [bcdInRange]

/-- The body of BCDENC on an integer 0..99, run to its end under any command word (R150). -/
theorem execute_bcdencBody {w : Word} {v : BitVec 16} {s : State} (hf : s.flags.fatal = false)
    (h0 : 0 ≤ v.toInt) (h99 : v.toInt ≤ 99) :
    execute w false (bcdencBody v) s =
      { s with result := zext32 (bcdPack v.toInt) }.answeredValue (zext32 (bcdPack v.toInt)) := by
  have hb : bcdencBody v s = .done (zext32 (bcdPack v.toInt)) (s.setResult (zext32 (bcdPack v.toInt))) :=
    if_pos ((bcdInRange_iff v.toInt).2 ⟨h0, h99⟩)
  rw [execute_done (by simp [hf]) hb]
  rfl

/-- What BCDENC leaves in RESULT for an integer 0..99 (R150). -/
theorem exec_bcdenc_result {v : BitVec 16} {s t : State} (hf : s.flags.fatal = false) (h0 : 0 ≤ v.toInt)
    (h99 : v.toInt ≤ 99) (h : exec (.bcdenc v) s = .next t) : t.result = zext32 (bcdPack v.toInt) := by
  have hexec : exec (.bcdenc v) s = .next _ := (exec_eq _ s).trans (congrArg _ (execute_bcdencBody hf h0 h99))
  cases hexec.symm.trans h
  rfl

/-- Settles O29: RESULT is the packed byte, and decoding gives the integer back; the packed byte of 20 is 0x20. -/
theorem bcdRoundTrip : Obligations.BcdRoundTrip := by
  refine ⟨fun v s t hf h0 h99 h => ?_, by decide, fun s t hf h => ?_⟩
  · have hvalue := toNat_bcdValue_bcdPack h0 h99
    rw [exec_bcdenc_result hf h0 h99 h, setWidth_zext32]
    exact ⟨hvalue, congrArg dec (by omega)⟩
  · rw [exec_bcdenc_result hf (by decide) (by decide) h]
    decide

end Sys2Proof.Proofs
end

section
/-! Family 43_control: what CSRRD answers, and which commands FATAL blocks (spec/43_control.md R170, R171, R172). -/

namespace Sys2Proof.Proofs

open Sys2Proof Sys2Proof.Machine Sys2Proof.Laws

/-- The exemption from the fatal block names CSRRD and no other instruction (R172). -/
theorem isCsrrd_eq_false {i : Instr} (h : ∀ n, i ≠ .csrrd n) : isCsrrd i = false := by
  cases i with
  | csrrd n => exact absurd rfl (h n)
  | _ => rfl

/-- While FATAL is 1 a command without the exemption is only answered (R172, R226, R232). -/
theorem exec_fatal {i : Instr} {s : State} (hf : s.flags.fatal = true) (hi : isCsrrd i = false) :
    exec i s = .next s.answeredFatal := by
  rw [exec_eq, hi, execute_fatal hf]

/-- CSRRD of an implemented register answers its value whatever FATAL is, and writes nothing else (R170, R172). -/
theorem exec_csrrd_of_some {n : Byte} {s : State} {v : Word} (hv : csrValue n s = some v) :
    exec (.csrrd n) s = .next (s.answeredValue v) := by
  have hbody : bodyOf (.csrrd n) s = .done v s := by simp only [bodyOf, csrrdBody, hv]
  rw [exec_eq, execute_done (by simp [isCsrrd]) hbody]
  rfl

/-- CSRRD of an unimplemented number is an illegal command whatever FATAL is (R171, R229). -/
theorem exec_csrrd_of_none {n : Byte} {s : State} (hv : csrValue n s = none) :
    exec (.csrrd n) s = .next (s.answeredError .illegalCommand (hcwOf (.csrrd n))) := by
  have hbody : bodyOf (.csrrd n) s = .raised .illegalCommand s := by simp only [bodyOf, csrrdBody, hv]
  rw [exec_eq, execute_refused (by simp [isCsrrd]) hbody]

/-- Settles O10: CSRRD is exempt and reads the register; every other command meets the fatal block before its body. -/
theorem fatalBlockAnswersOnlyCsrrd : Obligations.FatalBlockAnswersOnlyCsrrd := by
  intro s hf
  constructor
  · intro n hn
    obtain ⟨v, hv⟩ := csrValue_some hn s
    exact ⟨v, exec_csrrd_of_some hv⟩
  · intro i hi
    exact exec_fatal hf (isCsrrd_eq_false hi)

/-- Settles O11: no register has such a number, and the bookkeeping of ILLEGAL_COMMAND sets E_ILL (R35, R226). -/
theorem csrrdOfUnimplementedNumberIsIllegal : Obligations.CsrrdOfUnimplementedNumberIsIllegal := by
  intro n s hn
  have hv : csrValue n s = none := csrValue_none (by omega) s
  exact ⟨exec_csrrd_of_none hv, by simp [State.answeredError]⟩

end Sys2Proof.Proofs
end

section
/-! Family 60_exceptions: the words of CSRRD, and the order of the prologue's checks (spec/60_exceptions.md R229). -/

namespace Sys2Proof.Proofs

open Sys2Proof Sys2Proof.Machine Sys2Proof.Laws

/-! ### The words of CSRRD -/

/-- A word is put together from its three fields (R73). -/
theorem hcw_fields (w : Word) : hcw (opcField w) (aField w) (bField w) = w := by
  have hhigh : opcField w ++ aField w = w.extractLsb' 16 16 := BitVec.extractLsb'_append_extractLsb'_eq_extractLsb' rfl
  calc hcw (opcField w) (aField w) (bField w) = w.extractLsb' 16 16 ++ w.extractLsb' 0 16 := by rw [hcw, hhigh, bField]
    _ = w.extractLsb' 0 32 := BitVec.extractLsb'_append_extractLsb'_eq_extractLsb' rfl
    _ = w := BitVec.extractLsb'_eq_self

/-- The low half of a word in the format of CSRRD is 0 (R74). -/
theorem bField_of_wordOk_c {w : Word} (h : Format.c.wordOk w = true) : bField w = 0#16 := by
  have hlow : w &&& 0x0000FFFF#32 = 0#32 := eq_of_beq h
  calc bField w = bField w &&& bField 0x0000FFFF#32 := BitVec.and_allOnes.symm
    _ = bField (w &&& 0x0000FFFF#32) := BitVec.extractLsb'_and.symm
    _ = 0#16 := congrArg bField hlow

/-- The match and mask of CSRRD say its opcode and the zeros of its format (R76, R77). -/
theorem csrrdWord_iff (w : Word) :
    w &&& 0xFF00FFFF#32 = 0x30000000#32 ↔ opcField w = 0x30#8 ∧ Format.c.wordOk w = true := by
  constructor
  · intro h
    constructor
    · calc opcField w = opcField w &&& opcField 0xFF00FFFF#32 := BitVec.and_allOnes.symm
        _ = opcField (w &&& 0xFF00FFFF#32) := BitVec.extractLsb'_and.symm
        _ = 0x30#8 := congrArg opcField h
    · rw [Format.wordOk, beq_iff_eq]
      calc w &&& 0x0000FFFF#32 = w &&& 0xFF00FFFF#32 &&& 0x0000FFFF#32 := by rw [BitVec.and_assoc]; rfl
        _ = 0#32 := congrArg (· &&& 0x0000FFFF#32) h
  · rintro ⟨hopc, hok⟩
    calc w &&& 0xFF00FFFF#32
        = hcw (opcField w) (aField w) (bField w) &&& hcw 0xFF#8 0x00#8 0xFFFF#16 := by rw [hcw_fields]; rfl
      _ = hcw 0x30#8 0x00#8 0x0000#16 := by
        rw [hopc, bField_of_wordOk_c hok, EncodingShape.hcw_and, BitVec.and_zero]; rfl

/-- A legal CSRRD word is the word of CSRRD of its number (R76, R86). -/
theorem hcwOf_csrrd_aField {w : Word} (h : w &&& 0xFF00FFFF#32 = 0x30000000#32) : hcwOf (.csrrd (aField w)) = w := by
  obtain ⟨hopc, hok⟩ := (csrrdWord_iff w).1 h
  calc hcw 0x30#8 (aField w) 0x0000#16 = hcw (opcField w) (aField w) (bField w) := by
        rw [hopc, bField_of_wordOk_c hok]
    _ = w := hcw_fields w

/-- A legal CSRRD word decodes to CSRRD of its number (R76). -/
theorem decodeWord_csrrd {w : Word} (h : w &&& 0xFF00FFFF#32 = 0x30000000#32) :
    decodeWord w = .ok (.csrrd (aField w)) := by
  obtain ⟨hopc, hok⟩ := (csrrdWord_iff w).1 h
  simp [decodeWord, hopc, inFormat, hok]

/-- A word that a format accepts has the format's zeros and gives its command (R78). -/
theorem inFormat_eq_ok_iff {f : Format} {w : Word} {i j : Instr} :
    inFormat f w i = .ok j ↔ f.wordOk w = true ∧ i = j := by
  simp [inFormat, ite_eq_iff]

/-- No other word decodes to CSRRD: the opcode map gives it one opcode (R76, R78). -/
theorem csrrdWord_of_decodeWord {w : Word} {n : Byte} (h : decodeWord w = .ok (.csrrd n)) :
    w &&& 0xFF00FFFF#32 = 0x30000000#32 := by
  unfold decodeWord at h
  split at h
  case h_10 hopc => exact (csrrdWord_iff w).2 ⟨BitVec.eq_of_toNat_eq hopc, (inFormat_eq_ok_iff.1 h).1⟩
  case h_11 => cases h
  all_goals cases (inFormat_eq_ok_iff.1 h).2

/-! ### The prologue -/

/-- A word that decodes is executed, with the issue taken off the queue (R8, R22). -/
theorem step_of_decodeWord_ok {s : State} {w : Word} {q : List Issue} {i : Instr} (hp : s.pending = .word w :: q)
    (hd : decodeWord w = .ok i) : step s = exec i (s.setPending q) := by
  simp only [step, hp, decode, hd]

/-- A word that does not decode is answered as an illegal word, with the issue taken off the queue (R174, R222). -/
theorem step_of_decodeWord_error {s : State} {w : Word} {q : List Issue} {e : DecodeError}
    (hp : s.pending = .word w :: q) (hd : decodeWord w = .error e) :
    step s = .next (executeIllegal w (s.setPending q)) := by
  simp only [step, hp, decode, hd, rejectIssue]

/-- While FATAL is 1 a word that is not a CSRRD word is only answered, whether it decodes or not (R229, R232). -/
theorem step_fatal {s : State} {w : Word} {q : List Issue} (hp : s.pending = .word w :: q)
    (hf : s.flags.fatal = true) (hw : w &&& 0xFF00FFFF#32 ≠ 0x30000000#32) :
    step s = .next (s.setPending q).answeredFatal := by
  cases hd : decodeWord w with
  | error e => rw [step_of_decodeWord_error hp hd, executeIllegal, execute_fatal (s := s.setPending q) hf]
  | ok i =>
    have hi : ∀ n, i ≠ .csrrd n := fun n hn => hw (csrrdWord_of_decodeWord (hn ▸ hd))
    rw [step_of_decodeWord_ok hp hd, exec_fatal (s := s.setPending q) hf (isCsrrd_eq_false hi)]

/-- While FATAL is 0 an illegal word records its error and is answered, and nothing else changes (R226, R229). -/
theorem step_illegal {s : State} {w : Word} {q : List Issue} {e : DecodeError} (hp : s.pending = .word w :: q)
    (hf : s.flags.fatal = false) (hd : decodeWord w = .error e) :
    step s = .next ((s.setPending q).answeredError .illegalCommand w) := by
  rw [step_of_decodeWord_error hp hd, executeIllegal, execute_refused (by simp [hf]) rfl]

/-- Settles O8: the fatal block comes before the decoder's verdict, and only words of CSRRD decode to the exempt command,
which rejects the numbers of no register under its own word. -/
theorem prologueChecksFatalThenDecoding : Obligations.PrologueChecksFatalThenDecoding := by
  intro s w q hp
  refine ⟨step_fatal hp, fun hf e hd => step_illegal hp hf hd, fun hw => ?_⟩
  have hstep : step s = exec (.csrrd (aField w)) (s.setPending q) := step_of_decodeWord_ok hp (decodeWord_csrrd hw)
  refine ⟨hstep, fun hn => ?_⟩
  have hnone : csrValue (aField w) (s.setPending q) = none := csrValue_none (Nat.not_le.2 hn) _
  rw [hstep, exec_csrrd_of_none hnone, hcwOf_csrrd_aField hw]
  rfl

end Sys2Proof.Proofs
end

section
/-! Family other, the encoding: the decoder and the encoder are inverse to each other (spec/30_encoding.md R71, R73 to
R79, R86), the match and mask of each host command (R77), and the layout of a command byte (R70). -/

namespace Sys2Proof.Proofs

open Sys2Proof Sys2Proof.Machine Sys2Proof.Laws

/-! ### The fields of a word -/

@[simp] theorem aField_hcw (o a : Byte) (b : BitVec 16) : aField (hcw o a b) = a := by
  rw [aField, hcw, BitVec.extractLsb'_append_eq_of_le (Nat.le_refl 16), BitVec.extractLsb'_append_eq_right]

@[simp] theorem bField_hcw (o a : Byte) (b : BitVec 16) : bField (hcw o a b) = b :=
  BitVec.extractLsb'_append_eq_right

@[simp] theorem opcField_hcw (o a : Byte) (b : BitVec 16) : opcField (hcw o a b) = o := EncodingShape.field_opc o a b

/-- A word is what its three fields say (R73). -/
theorem hcw_eq_iff {o a : Byte} {b : BitVec 16} {w : Word} :
    hcw o a b = w ↔ opcField w = o ∧ aField w = a ∧ bField w = b := by
  constructor
  · rintro rfl
    exact ⟨opcField_hcw o a b, aField_hcw o a b, bField_hcw o a b⟩
  · rintro ⟨rfl, rfl, rfl⟩
    exact hcw_fields w

/-- Masking a word masks its fields (R73, R77). -/
theorem and_hcw_eq_iff {w : Word} {mo ma vo va : Byte} {mb vb : BitVec 16} :
    w &&& hcw mo ma mb = hcw vo va vb ↔
      opcField w &&& mo = vo ∧ aField w &&& ma = va ∧ bField w &&& mb = vb := by
  rw [← hcw_fields w, EncodingShape.hcw_and, eq_comm, hcw_eq_iff]
  simp only [opcField_hcw, aField_hcw, bField_hcw]

/-- The low byte of a word is the low byte of its field `B` (R75). -/
theorem extractLsb'_eq_dataField (w : Word) : w.extractLsb' 0 8 = dataField w := by
  conv_lhs => rw [← hcw_fields w]
  exact BitVec.extractLsb'_append_eq_of_add_le (by decide)

@[simp] theorem dataField_hcw (o a d : Byte) : dataField (hcw o a (dataOperand d)) = d := by
  rw [dataField, bField_hcw]
  exact BitVec.extractLsb'_append_eq_right

/-- A field `B` whose high byte is 0 is the data operand of its low byte (R74, R75). -/
theorem dataOperand_dataField {w : Word} (h : bField w &&& 0xFF00#16 = 0#16) : dataOperand (dataField w) = bField w := by
  have hsplit : (bField w).extractLsb' 8 8 ++ dataField w = bField w := BitVec.extractLsb'_append_extractLsb'
  have hhigh : (bField w).extractLsb' 8 8 = 0x00#8 := by
    calc (bField w).extractLsb' 8 8 = (bField w).extractLsb' 8 8 &&& (0xFF00#16).extractLsb' 8 8 :=
          BitVec.and_allOnes.symm
      _ = (bField w &&& 0xFF00#16).extractLsb' 8 8 := BitVec.extractLsb'_and.symm
      _ = 0x00#8 := by rw [h]; rfl
  rw [dataOperand, ← hhigh, hsplit]

/-! ### Formats -/

/-- The bits a format marks `0` lie below the opcode (R74). -/
theorem reservedMask_eq (f : Format) : f.reservedMask = hcw 0x00#8 (aField f.reservedMask) (bField f.reservedMask) := by
  cases f <;> decide

/-- A word has a format's zeros when the masks of the fields `A` and `B` meet none of their bits (R74). -/
theorem wordOk_iff (f : Format) (w : Word) :
    f.wordOk w = true ↔ aField w &&& aField f.reservedMask = 0#8 ∧ bField w &&& bField f.reservedMask = 0#16 := by
  have hzero : (0#32 : Word) = hcw 0x00#8 0x00#8 0x0000#16 := rfl
  rw [Format.wordOk, beq_iff_eq, reservedMask_eq, hzero, and_hcw_eq_iff]
  simp

/-- The mask of a command is its opcode and the zeros of its format; its match is its opcode alone (R77). -/
theorem masked_eq_iff (f : Format) (opc : Byte) (w : Word) :
    w &&& (0xFF000000#32 ||| f.reservedMask) = hcw opc 0x00#8 0x0000#16 ↔ opcField w = opc ∧ f.wordOk w = true := by
  have hmask : 0xFF000000#32 ||| f.reservedMask = hcw 0xFF#8 (aField f.reservedMask) (bField f.reservedMask) := by
    cases f <;> decide
  have hopc : opcField w &&& 0xFF#8 = opcField w := BitVec.and_allOnes
  rw [hmask, and_hcw_eq_iff, hopc, wordOk_iff]

/-- A word that meets the match and mask of a row decodes to the row's command (R77, R78). -/
theorem decodeWord_of_masked {w : Word} {f : Format} {opc : Byte} {i : Instr}
    (hrow : opcField w = opc → decodeWord w = inFormat f w i)
    (h : w &&& (0xFF000000#32 ||| f.reservedMask) = hcw opc 0x00#8 0x0000#16) : decodeWord w = .ok i := by
  obtain ⟨hopc, hok⟩ := (masked_eq_iff f opc w).1 h
  rw [hrow hopc, inFormat_eq_ok_iff]
  exact ⟨hok, rfl⟩

/-! ### Decoding and encoding -/

/-- Decoding the byte of a command-byte row gives the row (R71). -/
theorem decodeCommandByte_of_commandByteOf {i : Instr} {b : Byte} (h : commandByteOf i = some b) :
    decodeCommandByte b = .ok i := by
  cases i <;> cases h <;> rfl

/-- A command byte that decodes is the byte of its row (R71). -/
theorem commandByteOf_of_decodeCommandByte {i : Instr} {b : Byte} (h : decodeCommandByte b = .ok i) :
    commandByteOf i = some b := by
  unfold decodeCommandByte at h
  split at h
  case h_19 => cases h
  all_goals
    rename_i hb
    cases h
    exact congrArg some (BitVec.eq_of_toNat_eq hb.symm)

/-- A host command word that decodes has no command byte, and is the word of what it decodes to (R76, R86). -/
theorem hcwOf_of_decodeWord {w : Word} {i : Instr} (h : decodeWord w = .ok i) : commandByteOf i = none ∧ hcwOf i = w := by
  unfold decodeWord at h
  split at h
  case h_11 => cases h
  all_goals
    rename_i hopc
    obtain ⟨hok, rfl⟩ := inFormat_eq_ok_iff.1 h
    obtain ⟨ha, hb⟩ := (wordOk_iff _ w).1 hok
    refine ⟨rfl, hcw_eq_iff.2 ?_⟩
  case h_1 | h_2 | h_4 | h_7 =>
    exact ⟨BitVec.eq_of_toNat_eq hopc, BitVec.and_allOnes.symm.trans ha, BitVec.and_allOnes.symm.trans hb⟩
  case h_3 | h_9 => exact ⟨BitVec.eq_of_toNat_eq hopc, BitVec.and_allOnes.symm.trans ha, (dataOperand_dataField hb).symm⟩
  case h_5 => exact ⟨BitVec.eq_of_toNat_eq hopc, rfl, (dataOperand_dataField hb).symm⟩
  case h_6 | h_10 => exact ⟨BitVec.eq_of_toNat_eq hopc, rfl, BitVec.and_allOnes.symm.trans hb⟩
  case h_8 => exact ⟨BitVec.eq_of_toNat_eq hopc, BitVec.and_allOnes.symm.trans ha, rfl⟩

/-- The word of a host command has its opcode and the zeros of its format (R74, R76). -/
theorem hcwOf_fields {i : Instr} (h : commandByteOf i = none) :
    ∃ opc f, EncodingShape.opcodeFormat i = some (opc, f) ∧ opcField (hcwOf i) = opc ∧ f.wordOk (hcwOf i) = true := by
  have hencode : encode i = .word (hcwOf i) := by simp only [encode, h]
  have key : EncodingShape.Statement i → ∃ opc f,
      EncodingShape.opcodeFormat i = some (opc, f) ∧ opcField (hcwOf i) = opc ∧ f.wordOk (hcwOf i) = true := by
    unfold EncodingShape.Statement
    rw [hencode]
    exact id
  cases i
  case cson => exact key EncodingShape.cson
  case csoff => exact key EncodingShape.csoff
  case wrbyte d => exact key (EncodingShape.wrbyte d)
  case rdbyte => exact key EncodingShape.rdbyte
  case wrreg a d => exact key (EncodingShape.wrreg a d)
  case rdreg a => exact key (EncodingShape.rdreg a)
  case start => exact key EncodingShape.start
  case bcdenc v => exact key (EncodingShape.bcdenc v)
  case bcddec d => exact key (EncodingShape.bcddec d)
  case csrrd n => exact key (EncodingShape.csrrd n)
  all_goals cases h

/-- The word of a host command decodes to it (R76, R86). -/
theorem decodeWord_hcwOf {i : Instr} (h : commandByteOf i = none) : decodeWord (hcwOf i) = .ok i := by
  obtain ⟨opc, f, hrow, hopc, hok⟩ := hcwOf_fields h
  have hdecode : decodeWord (hcwOf i) = inFormat f (hcwOf i) i := by
    cases i <;> cases hrow <;> simp [decodeWord, hcwOf, wrbyteWord]
  rw [hdecode, inFormat_eq_ok_iff]
  exact ⟨hok, rfl⟩

/-- A word that decodes meets the match and mask of the row of what it decodes to (R77, R78). -/
theorem masked_of_decodeWord {w : Word} {i : Instr} (h : decodeWord w = .ok i) :
    ∃ opc f, EncodingShape.opcodeFormat i = some (opc, f) ∧
      w &&& (0xFF000000#32 ||| f.reservedMask) = hcw opc 0x00#8 0x0000#16 := by
  obtain ⟨hnone, rfl⟩ := hcwOf_of_decodeWord h
  obtain ⟨opc, f, hrow, hfields⟩ := hcwOf_fields hnone
  exact ⟨opc, f, hrow, (masked_eq_iff f opc _).2 hfields⟩

/-- Settles O2: a command byte is decoded by its own table, and every other instruction has the opcode and the zeros that
its row of the opcode map asks for. -/
theorem decodeOfEncodeIsTheInstruction : Obligations.DecodeOfEncodeIsTheInstruction := by
  intro i
  cases h : commandByteOf i with
  | some b => simpa only [encode, decode, h] using decodeCommandByte_of_commandByteOf h
  | none => simpa only [encode, decode, h] using decodeWord_hcwOf h

/-- Settles O3: each row of the decoder gives the fields back, and the bits a row marks `0` are 0. -/
theorem encodeOfDecodeIsTheIssue : Obligations.EncodeOfDecodeIsTheIssue := by
  refine ⟨fun x i h => ?_, fun w i h => (hcwOf_of_decodeWord h).2⟩
  cases x with
  | word w =>
    obtain ⟨hnone, rfl⟩ := hcwOf_of_decodeWord h
    simp only [encode, hnone]
  | commandByte b => simp only [encode, commandByteOf_of_decodeCommandByte h]

/-- Settles O4: a row's match and mask say its opcode and the zeros of its format, which is what the decoder asks; and a
word that decodes meets the row of what it decodes to. -/
theorem decoderFollowsMatchAndMask : Obligations.DecoderFollowsMatchAndMask := by
  intro w
  simp only [extractLsb'_eq_dataField]
  refine ⟨?_, ?_, ?_, ?_, ?_, ?_, ?_, ?_, ?_, ?_, ?_⟩
  · exact decodeWord_of_masked (w := w) (f := .n) (opc := 0x01#8) fun h => by simp [decodeWord, h]
  · exact decodeWord_of_masked (w := w) (f := .n) (opc := 0x02#8) fun h => by simp [decodeWord, h]
  · exact decodeWord_of_masked (w := w) (f := .y) (opc := 0x03#8) fun h => by simp [decodeWord, h]
  · exact decodeWord_of_masked (w := w) (f := .n) (opc := 0x04#8) fun h => by simp [decodeWord, h]
  · exact decodeWord_of_masked (w := w) (f := .rw) (opc := 0x10#8) fun h => by simp [decodeWord, h, aField]
  · exact decodeWord_of_masked (w := w) (f := .rr) (opc := 0x11#8) fun h => by simp [decodeWord, h, aField]
  · exact decodeWord_of_masked (w := w) (f := .n) (opc := 0x12#8) fun h => by simp [decodeWord, h]
  · exact decodeWord_of_masked (w := w) (f := .i) (opc := 0x20#8) fun h => by simp [decodeWord, h, bField]
  · exact decodeWord_of_masked (w := w) (f := .y) (opc := 0x21#8) fun h => by simp [decodeWord, h]
  · exact decodeWord_of_masked (w := w) (f := .c) (opc := 0x30#8) fun h => by simp [decodeWord, h, aField]
  · intro hn hy hrw hrrc hi
    cases hd : decodeWord w with
    | error e => exact ⟨e, rfl⟩
    | ok i =>
      exfalso
      simp only [List.mem_cons, List.not_mem_nil, or_false, not_or] at hn hy hrrc
      obtain ⟨hcson, hcsoff, hrdbyte, hstart⟩ := hn
      obtain ⟨opc, f, hrow, hmasked⟩ := masked_of_decodeWord hd
      cases i <;> cases hrow
      · exact hcson hmasked
      · exact hcsoff hmasked
      · exact hy.1 hmasked
      · exact hrdbyte hmasked
      · exact hrw hmasked
      · exact hrrc.1 hmasked
      · exact hstart hmasked
      · exact hi hmasked
      · exact hy.2 hmasked
      · exact hrrc.2 hmasked

/-- Every command byte of the table has the marker bit (R70). -/
theorem commandByteOk_of_commandByteOf {i : Instr} {b : Byte} (h : commandByteOf i = some b) :
    commandByteOk b = true := by
  cases i <;> cases h <;> rfl

/-- Settles O5: each by evaluating the decoder. -/
theorem sampleEncodingsDecode : Obligations.SampleEncodingsDecode :=
  ⟨rfl, rfl, rfl, rfl, rfl, rfl, rfl, rfl, rfl⟩

/-- Settles O6: the marker bit and the three fields make up any byte with the marker bit; the two sets are checked
byte by byte. -/
theorem commandBytesFollowTheLayout : Obligations.CommandBytesFollowTheLayout := by
  refine ⟨fun i b h => ?_, by decide, by decide⟩
  have hmarker := commandByteOk_of_commandByteOf h
  have hlayout : ∀ b, commandByteOk b = true → commandByteFrom (classOf b) (indexOf b) (directionOf b) = b := by decide
  exact ⟨hmarker, hlayout b hmarker, decodeCommandByte_of_commandByteOf h⟩

end Sys2Proof.Proofs
end

section
/-! Family other, the commands: what each leaves unchanged and how it ends (spec/10_state.md R22, R35;
spec/60_exceptions.md R220, R226, R229, R232), and the invariants that every step keeps. -/

namespace Sys2Proof.Proofs

open Sys2Proof Sys2Proof.Machine Sys2Proof.Laws

/-! ### How a command ends -/

/-- A response that R220 allows: its code is in use, and its value is 0 on an error. -/
def AllowedResponse (r : Response) : Prop :=
  (r.e ≠ 0#4 → r.val = 0#32) ∧ r.e ∈ [0#4, 1#4, 2#4, 3#4, 4#4, 5#4, 7#4, 15#4]

theorem allowed_error {e : ErrorCode} (he : e ≠ .direction) : AllowedResponse { e := e.num, val := 0#32 } := by
  refine ⟨fun _ => rfl, ?_⟩
  cases e with
  | direction => exact absurd rfl he
  | _ => decide

theorem allowed_success (v : Word) : AllowedResponse { e := 0#4, val := v } := ⟨fun h => absurd rfl h, by simp⟩

/-- `t` is `m` with a response given; only the flags, RXBUF and RESULT may differ beside it. -/
def Closes (m t : State) (r : Response) : Prop :=
  t = { m with
    rxbuf := t.rxbuf
    result := t.result
    flags := t.flags
    responses := m.responses ++ [r]
    hostPc := m.hostPc + 1 }

/-- A body's last state, answered with success. -/
theorem closes_respond {m u : State} (h : UpTo m u) (e : BitVec 4) (v : Word) :
    Closes m (u.respond e v) { e := e, val := v } := by
  rw [h]
  rfl

/-- However a command ends, the trace and the pins have taken the first `k` of its events, `n` operations were attempted,
and one response was given (R22, R105, R226, R232). -/
theorem ends_closes {i : Instr} {s t : State} (h : Ends i s t) :
    ∃ k n m r, Moved s m ((commandEvents i s).take k) n ∧ Closes m t r ∧ AllowedResponse r := by
  cases h with
  | fatal _ ht =>
    exact ⟨0, 0, s, _, Moved.refl s, by rw [ht]; rfl, allowed_error (e := .pinFault) (by decide)⟩
  | refused e hr _ ht =>
    have he : e ≠ .direction := fun he => refusedWith_ne_direction i s (he ▸ hr)
    exact ⟨0, 0, s, _, Moved.refl s, by rw [ht]; rfl, allowed_error he⟩
  | done _ _ m u v hm hu _ ht =>
    exact ⟨_, _, m, _, by rwa [List.take_length], by rw [ht]; exact closes_respond hu _ _, allowed_success v⟩
  | frame _ _ hi _ u hm _ ht =>
    subst hi
    exact ⟨1, 1, u, _, hm, by rw [ht]; rfl, allowed_error (e := .frameViolation) (by decide)⟩
  | fault _ k _ _ u hm _ ht =>
    exact ⟨k, _, u, _, hm, by rw [ht]; rfl, allowed_error (e := .pinFault) (by decide)⟩

/-- The trace and the pins of `ends_closes` alone. -/
theorem ends_pins {i : Instr} {s t : State} (h : Ends i s t) :
    ∃ k, t.trace = s.trace ++ (commandEvents i s).take k ∧
      t.pins = ((commandEvents i s).take k).foldl Event.onPins s.pins := by
  obtain ⟨k, n, m, r, hm, ht, -⟩ := ends_closes h
  rw [ht]
  exact ⟨k, hm.trace, hm.pins⟩

/-- Settles O31: of a command's state only the parts that `Closes` and `Moved` name change. -/
theorem everyCommandFrame : Obligations.EveryCommandFrame := by
  intro i s t h
  obtain ⟨k, n, m, r, hm, ht, -⟩ := ends_closes (exec_inversion h)
  rw [ht]
  exact ⟨hm.params, hm.draws, hm.pending, congrArg (· + 1) hm.hostPc, ⟨r, congrArg (· ++ [r]) hm.responses⟩,
    _, hm.trace, hm.pins⟩

/-- Where a command with events is not refused, FATAL is 0: CSRRD, which is exempt, has no events (R172). -/
theorem fatal_eq_false_of_events {i : Instr} {s : State} (hr : refusedWith i s = none)
    (he : commandEvents i s ≠ []) : s.flags.fatal = false := by
  obtain ⟨hf, -⟩ := refusedWith_none hr
  cases i with
  | csrrd n => exact absurd rfl he
  | _ => simpa [isCsrrd] using hf

/-- However a command ends, either no flag has changed, or one error other than `DIRECTION` was recorded (R107, R226). -/
theorem ends_flags {i : Instr} {s t : State} (h : Ends i s t) :
    t.flags = s.flags ∨ ∃ e, e ≠ .direction ∧ t.flags = s.flags.note e (hcwOf i) := by
  cases h with
  | fatal _ ht => exact .inl (by rw [ht]; rfl)
  | refused e hr _ ht => exact .inr ⟨e, fun he => refusedWith_ne_direction i s (he ▸ hr), by rw [ht]; rfl⟩
  | done _ _ _ _ _ hm hu _ ht =>
    obtain ⟨-, -, -, hflags, -⟩ := hu.fields
    exact .inl (by rw [ht, respond_flags, hflags, hm.flags])
  | frame _ _ _ _ _ hm _ ht =>
    exact .inr ⟨.frameViolation, by decide, by rw [ht, respond_flags, setFlags_flags, hm.flags]⟩
  | fault _ _ _ _ _ hm _ ht => exact .inr ⟨.pinFault, by decide, by rw [ht, respond_flags, setFlags_flags, hm.flags]⟩

/-- Settles O32: of the five ways a command ends one is a success, and each of the others records one error or, when
FATAL was 1 already, none. -/
theorem everyCommandSucceedsOrRecordsOneError : Obligations.EveryCommandSucceedsOrRecordsOneError := by
  intro i s
  obtain ⟨t, hexec, hends⟩ := exec_ends i s
  refine ⟨t, hexec, ?_⟩
  cases hends with
  | fatal hr ht =>
    obtain ⟨hf, -⟩ := refusedWith_pinFault.1 hr
    rw [ht]
    exact .inr ⟨.pinFault, rfl, (if_pos ⟨rfl, hf⟩).symm, rfl, rfl⟩
  | refused e hr he ht =>
    rw [ht]
    exact .inr ⟨e, rfl, (if_neg fun h => he h.1).symm, rfl, rfl⟩
  | done _ _ _ _ v hm hu _ ht =>
    obtain ⟨-, -, -, hflags, -, -, hresponses, -⟩ := hu.fields
    rw [ht]
    exact .inl ⟨v, by rw [respond_responses, hresponses, hm.responses], by rw [respond_flags, hflags, hm.flags]⟩
  | frame _ _ _ _ _ hm _ ht =>
    rw [ht]
    exact .inr ⟨.frameViolation, by rw [respond_responses, setFlags_responses, hm.responses]; rfl,
      by rw [if_neg (by simp), respond_flags, setFlags_flags, hm.flags], hm.result, hm.rxbuf⟩
  | fault hr k hk _ _ hm _ ht =>
    have hf : s.flags.fatal = false := fatal_eq_false_of_events hr (List.ne_nil_of_length_pos (Nat.zero_lt_of_lt hk))
    rw [ht]
    exact .inr ⟨.pinFault, by rw [respond_responses, setFlags_responses, hm.responses]; rfl,
      by rw [if_neg (by simp [hf]), respond_flags, setFlags_flags, hm.flags], hm.result, hm.rxbuf⟩

/-- Settles O36: a command leaves the flags, or notes one error in them, which sets bits and clears none. -/
theorem stickyBitsAreNeverCleared : Obligations.StickyBitsAreNeverCleared := by
  intro i s t h
  obtain hflags | ⟨e, -, hflags⟩ := ends_flags (exec_inversion h) <;> rw [hflags]
  · simp +contextual
  · simp +contextual

/-- Settles O9: of the ways a command ends only two are refusals, and each has the error of `refusedWith`. -/
theorem refusedCommandOnlyRecordsItsError : Obligations.RefusedCommandOnlyRecordsItsError := by
  intro i s e hrefused
  obtain ⟨t, hexec, hends⟩ := exec_ends i s
  rw [hexec]
  cases hends with
  | fatal hr ht =>
    cases hrefused.symm.trans hr
    rw [ht, if_pos rfl]
  | refused e hr he ht =>
    cases hrefused.symm.trans hr
    rw [ht, if_neg he]
  | done hr | frame hr | fault hr => cases hrefused.symm.trans hr

/-- `PIN_FAULT` alone has the code 15 (R220). -/
theorem num_eq_fifteen_iff (e : ErrorCode) : e.num = 15#4 ↔ e = .pinFault := by
  cases e <;> decide

/-- Settles O40: with PIN_FAULTS false no operation fails, and the checks find `PIN_FAULT` only while FATAL is 1. -/
theorem noPinFaultWithoutTheParameter : Obligations.NoPinFaultWithoutTheParameter := by
  intro i s t hp hf h
  cases exec_inversion h with
  | fatal hr ht => exact absurd (refusedWith_pinFault.1 hr).1 (by simp [hf])
  | refused e hr he ht =>
    rw [ht]
    exact ⟨by simp [State.answeredError, hf, he], _, rfl, mt (num_eq_fifteen_iff e).1 he⟩
  | done hr hq m u v hm hu hb ht =>
    obtain ⟨-, -, -, hflags, -, -, hresponses, -⟩ := hu.fields
    exact ⟨by rw [ht, respond_flags, hflags, hm.flags, hf], _, by rw [ht, respond_responses, hresponses, hm.responses],
      by simp⟩
  | frame _ _ _ _ _ hm _ ht =>
    exact ⟨by simp [ht, hm.flags, hf], _, by rw [ht, respond_responses, setFlags_responses, hm.responses], by simp⟩
  | fault _ _ _ hfails => exact absurd hfails.2 (by simp [State.failsAt, hp])

/-! ### Commands with every event, and commands cut by a pin fault -/

/-- The first failing operation is one. -/
theorem firstFailsAt_unique {s : State} {k l : Nat} (hk : s.firstFailsAt k) (hl : s.firstFailsAt l) : k = l := by
  obtain hlt | heq | hlt := Nat.lt_trichotomy k l
  · exact absurd (hl.1 k hlt) (by simp [hk.2])
  · exact heq
  · exact absurd (hk.1 l hlt) (by simp [hl.2])

/-- Settles O37: a command with no refusal and no failing operation has run to its end, or is CSOFF on an
invalid shape. -/
theorem completedCommandEmitsItsEvents : Obligations.CompletedCommandEmitsItsEvents := by
  intro i s hr hq
  obtain ⟨t, hexec, hends⟩ := exec_ends i s
  refine ⟨t, hexec, ?_⟩
  cases hends with
  | fatal hr' | refused _ hr' => cases hr.symm.trans hr'
  | done _ _ m u v hm hu _ ht =>
    obtain ⟨-, hpins, -, hflags, -, -, hresponses, htrace, -, hcount, -⟩ := hu.fields
    rw [ht]
    exact ⟨htrace.trans hm.trace, hpins.trans hm.pins, hcount.trans hm.opCount,
      congrArg Flags.fatal (hflags.trans hm.flags), _,
      congrArg (· ++ _) (hresponses.trans hm.responses), .inl rfl⟩
  | frame _ _ hi _ u hm _ ht =>
    subst hi
    rw [ht]
    exact ⟨hm.trace, hm.pins, hm.opCount, by simp [hm.flags], _, congrArg (· ++ _) hm.responses, .inr ⟨rfl, rfl⟩⟩
  | fault _ k hk hf => exact absurd (hq k hk) (by simp [hf.2])

/-- A command that a pin fault cuts ends with exactly that. -/
theorem exec_of_firstFailsAt {i : Instr} {s t : State} {k : Nat} (hr : refusedWith i s = none)
    (hk : k < (commandEvents i s).length) (hf : s.firstFailsAt k) (h : exec i s = .next t) :
    ∃ u, Moved s u ((commandEvents i s).take k) (k + 1) ∧ bodyOf i s = .raised .pinFault u ∧
      t = (u.setFlags (u.flags.note .pinFault (hcwOf i))).respond 15#4 0#32 := by
  cases exec_inversion h with
  | fatal hr' | refused _ hr' => cases hr.symm.trans hr'
  | done _ hq => exact absurd (hq k hk) (by simp [hf.2])
  | frame _ hq hi =>
    subst hi
    exact absurd (hq k hk) (by simp [hf.2])
  | fault _ l _ hf' u hm hb ht =>
    obtain rfl := firstFailsAt_unique hf hf'
    exact ⟨u, hm, hb, ht⟩

/-- Settles O38: the one way left for such a command to end. -/
theorem pinFaultKeepsTheEventsBeforeIt : Obligations.PinFaultKeepsTheEventsBeforeIt := by
  intro i s k hr hk hf
  obtain ⟨t, hexec, -⟩ := exec_ends i s
  obtain ⟨u, hm, -, ht⟩ := exec_of_firstFailsAt hr hk hf hexec
  refine ⟨t, hexec, ?_⟩
  rw [ht]
  exact ⟨hm.trace, hm.pins, hm.opCount, by simp [hm.flags], by simp, congrArg (· ++ _) hm.responses, hm.result, hm.rxbuf⟩

/-! ### The invariants -/

/-- Settles O46: the trace and the responses are empty, and every flag is 0. -/
theorem resetMeetsTheInvariants : Obligations.ResetMeetsTheInvariants := by
  intro p
  exact ⟨⟨rfl, rfl⟩, ⟨fun _ => rfl, rfl⟩, ⟨rfl, rfl, fun _ => rfl⟩, ⟨Nat.one_pos, fun _ => rfl⟩, rfl,
    by simp [State.construct]⟩

/-- Settles O7: by the three cases of `step`. -/
theorem stepRunsTheDecodedInstruction : Obligations.StepRunsTheDecodedInstruction := by
  refine ⟨fun s x q i hp hd => ?_, fun s hp => ?_⟩
  · simp only [step, hp, hd]
    rfl
  · simp only [step, hp]

/-- Every step keeps a property that taking an issue off the queue, every command and the two answers to an illegal word
keep. -/
theorem step_keeps {P : State → Prop} {s t : State} (hs : P s) (h : step s = .next t)
    (hqueue : ∀ (s : State) q, P s → P (s.setPending q))
    (hexec : ∀ i (s t : State), P s → exec i s = .next t → P t)
    (hfatal : ∀ s : State, s.flags.fatal = true → P s → P s.answeredFatal)
    (hillegal : ∀ (s : State) w, s.flags.fatal = false → P s → P (s.answeredError .illegalCommand w)) : P t := by
  obtain ⟨-, rfl⟩ | ⟨_, q, i, -, -, he⟩ | ⟨w, q, _, -, -, rfl⟩ := step_inversion h
  · exact hs
  · exact hexec i _ t (hqueue s q hs) he
  · split
    · rename_i hf
      exact hfatal _ hf (hqueue s q hs)
    · rename_i hf
      exact hillegal _ w (by simpa using hf) (hqueue s q hs)

/-- Settles O41: a command adds a beginning of its event list, which is legal from every pin state. -/
theorem stepKeepsPinsFollowingTrace : Obligations.StepKeepsPinsFollowingTrace := by
  intro s t hs h
  refine step_keeps hs h (fun _ _ h => h) (fun i s t hs h => ?_) (fun _ _ h => h) fun _ _ _ h => h
  obtain ⟨hpins, hlegal⟩ := hs
  obtain ⟨k, htrace', hpins'⟩ := ends_pins (exec_inversion h)
  constructor
  · rw [hpins', htrace', List.foldl_append, ← hpins]
  · rw [htrace', eventsLegal_append, hlegal, ← hpins, Bool.true_and]
    exact eventsLegal_take _ _ k (eventsLegal_commandEvents i s _)

/-- The events of a whole command leave the clock low: every pulse is ended (R24, R101). -/
theorem foldl_commandEvents_sclkLvl (i : Instr) (s : State) {p : Pins} (hp : p.sclkLvl = false) :
    ((commandEvents i s).foldl Event.onPins p).sclkLvl = false := by
  cases i
  case cson | csoff | bcdenc | bcddec | csrrd => exact hp
  case rdbyte => exact congrArg Pins.sclkLvl (foldl_rxEvents s p)
  case wrreg a d => exact congrArg Pins.sclkLvl (foldl_writeEvents a d p)
  case rdreg a => simp [commandEvents, readEvents, foldl_txEvents, foldl_rxEvents, Event.onPins]
  case start => simp [commandEvents, foldl_txEvents, Event.onPins]
  all_goals exact congrArg Pins.sclkLvl (foldl_txEvents _ p)

/-- Settles O42: a refused command moves nothing; one that runs to its end attempts as many operations as it has
events and ends every pulse; and one that a pin fault cuts has attempted one more and sets FATAL. -/
theorem stepKeepsClockIdle : Obligations.StepKeepsClockIdle := by
  intro s t hs h
  refine step_keeps hs h (fun _ _ h => h) (fun i s t hs h => ?_) (fun _ _ h => h) fun s w _ h => ?_
  · obtain ⟨hclk, hcount⟩ := hs
    cases hr : refusedWith i s with
    | some e =>
      cases h.symm.trans (refusedCommandOnlyRecordsItsError i s e hr)
      split
      · exact ⟨hclk, hcount⟩
      · rename_i he
        simpa [State.ClockIdle, State.answeredError, he] using ⟨hclk, hcount⟩
    | none =>
      obtain hq | ⟨k, hk, hf⟩ := quiet_or_firstFailsAt s (commandEvents i s).length
      · obtain ⟨u, hexec, htrace, hpins, hops, hfatal, -⟩ := completedCommandEmitsItsEvents i s hr hq
        cases h.symm.trans hexec
        refine ⟨fun hf => ?_, ?_⟩
        · rw [hpins]
          exact foldl_commandEvents_sclkLvl i s (hclk (hfatal ▸ hf))
        · rw [hops, hcount, htrace, hfatal, List.length_append, Nat.add_right_comm]
      · obtain ⟨u, hexec, htrace, -, hops, -, hfatal, -⟩ := pinFaultKeepsTheEventsBeforeIt i s k hr hk hf
        cases h.symm.trans hexec
        have hnotFatal : s.flags.fatal = false :=
          fatal_eq_false_of_events hr (List.ne_nil_of_length_pos (Nat.zero_lt_of_lt hk))
        refine ⟨fun hf => absurd hfatal (by simp [hf]), ?_⟩
        rw [hops, hcount, htrace, hfatal, hnotFatal, List.length_append, List.length_take_of_le hk.le,
          if_neg Bool.false_ne_true, if_pos rfl]
        omega
  · simpa [State.ClockIdle, State.answeredError] using h

/-- The bookkeeping of an error other than `DIRECTION` keeps the flags consistent (R107, R226). -/
theorem note_flagsConsistent {s t : State} {e : ErrorCode} {w : Word} (he : e ≠ .direction) (h : s.FlagsConsistent)
    (ht : t.flags = s.flags.note e w) : t.FlagsConsistent := by
  obtain ⟨hdir, -, -⟩ := h
  unfold State.FlagsConsistent
  rw [ht]
  refine ⟨by simp [hdir, he], ?_, by simp⟩
  cases e <;> simp [Flags.anySet] at he ⊢

/-- Settles O43: a command leaves the flags, or notes an error other than `DIRECTION` in them. -/
theorem stepKeepsFlagsConsistent : Obligations.StepKeepsFlagsConsistent := by
  intro s t hs h
  refine step_keeps hs h (fun _ _ h => h) (fun i s t hs h => ?_) (fun _ _ h => h) fun s w _ h => ?_
  · obtain hflags | ⟨e, he, hflags⟩ := ends_flags (exec_inversion h)
    · unfold State.FlagsConsistent
      rwa [hflags]
    · exact note_flagsConsistent he hs hflags
  · exact note_flagsConsistent (by decide) h rfl

/-- One allowed response and `HOST_PC` advanced keep the responses consistent (R22, R220). -/
theorem responsesConsistent_append {s t : State} {r : Response} (hr : AllowedResponse r) (h : s.ResponsesConsistent)
    (hresponses : t.responses = s.responses ++ [r]) (hpc : t.hostPc = s.hostPc + 1) : t.ResponsesConsistent := by
  obtain ⟨hlen, hall⟩ := h
  refine ⟨by rw [hpc, hresponses, List.length_append, hlen]; rfl, fun x hx => ?_⟩
  rw [hresponses, List.mem_append, List.mem_singleton] at hx
  obtain hx | rfl := hx
  · exact hall x hx
  · exact hr

/-- Settles O45: every command gives one allowed response. -/
theorem stepKeepsResponsesConsistent : Obligations.StepKeepsResponsesConsistent := by
  intro s t hs h
  refine step_keeps hs h (fun _ _ h => h) (fun i s t hs h => ?_)
    (fun s _ h => responsesConsistent_append (allowed_error (e := .pinFault) (by decide)) h rfl rfl)
    fun s w _ h => responsesConsistent_append (allowed_error (e := .illegalCommand) (by decide)) h rfl rfl
  obtain ⟨k, n, m, r, hm, ht, hr⟩ := ends_closes (exec_inversion h)
  refine responsesConsistent_append hr hs ?_ ?_ <;> rw [ht]
  · exact congrArg (· ++ [r]) hm.responses
  · exact congrArg (· + 1) hm.hostPc

end Sys2Proof.Proofs
end

section
/-! Family other, each command: the whole state it leaves when it completes, and what it keeps however it ends. -/

namespace Sys2Proof.Proofs

open Sys2Proof Sys2Proof.Machine Sys2Proof.Laws

/-! ### Transport -/

/-- Settles O14: the body's one event and the cleared tracker. -/
theorem csonOpensAWindow : Obligations.CsonOpensAWindow := by
  intro s hf hc hq
  obtain ⟨_, t, hb, hm, rfl, hw, hs⟩ := (csonBody_plays s hc).quiet hq
  have hb : bodyOf .cson s = .done 0#32 t := hb
  rw [exec_eq, execute_done (by simp [hf]) hb, hm.eq, hw, hs]
  rfl

/-- Settles O15: the body deasserts, and then returns or raises by the shape of the tracker it kept. -/
theorem csoffClosesTheWindow : Obligations.CsoffClosesTheWindow := by
  intro s hf hc hq t
  have hbody : bodyOf .csoff s = _ := csoffBody_quiet s hc hq
  rw [exec_eq]
  cases hv : s.win.validShape with
  | true =>
    rw [hv, if_pos rfl] at hbody
    rw [execute_done (by simp [hf]) hbody]
    rfl
  | false =>
    rw [hv, if_neg (by simp)] at hbody
    rw [execute_raised (by simp [hf]) hbody]
    rfl

/-- A command byte runs as the transport of its byte (notes/assumptions/1.md). -/
theorem exec_of_commandByteOf {i : Instr} {b : Byte} (h : commandByteOf i = some b) (s : State) :
    exec i s = .next (execute (wrbyteWord b) false (wrbyteBody b) s) := by
  cases i <;> cases h <;> rfl

/-- Its body is that of `WRBYTE` of the byte. -/
theorem bodyOf_of_commandByteOf {i : Instr} {b : Byte} (h : commandByteOf i = some b) : bodyOf i = wrbyteBody b := by
  cases i <;> cases h <;> rfl

/-- Its events are those of sending the byte. -/
theorem commandEvents_of_commandByteOf {i : Instr} {b : Byte} (h : commandByteOf i = some b) (s : State) :
    commandEvents i s = txEvents b := by
  cases i <;> cases h <;> rfl

/-- Settles O19: the transport of the byte, whose bit 7, the last level on the line, is the marker bit. -/
theorem commandByteIsSent : Obligations.CommandByteIsSent := by
  intro i b s hi hf hc hq
  have hbit : b.getLsbD 7 = true := commandByteOk_of_commandByteOf hi
  rw [exec_of_commandByteOf hi, execute_wrbyteBody hf hc hq, hbit]

/-- `WIN_SEQ[k] <- b` writes bit `k` and no other (R108). -/
theorem getLsbD_setSeqBit {k : Nat} (hk : k < 3) (q : BitVec 3) (b : Bool) (j : Nat) :
    (setSeqBit q k b).getLsbD j = if j = k then b else q.getLsbD j := by
  by_cases hj : j < 3
  · revert q b
    interval_cases k <;> interval_cases j <;> decide
  · have hjk : j ≠ k := by omega
    rw [if_neg hjk, BitVec.getLsbD_of_ge _ _ (by omega), BitVec.getLsbD_of_ge _ _ (by omega)]

/-- Settles O20: by the three fields that `win_append` writes. -/
theorem trackerAppendsOneByte : Obligations.TrackerAppendsOneByte := by
  intro w received b
  refine ⟨rfl, fun hlen => ⟨?_, ?_, fun k hk => ?_⟩, fun hlen => ?_⟩
  · have hone : (1#2).toNat = 1 := rfl
    simp only [Window.append, hlen, if_true, BitVec.toNat_add, hone]
    exact Nat.mod_eq_of_lt (by omega)
  · simp only [Window.append, hlen, if_true, getLsbD_setSeqBit hlen]
  · simp only [Window.append, hlen, if_true, getLsbD_setSeqBit hlen, if_neg hk]
  · simp only [Window.append, hlen, Nat.lt_irrefl, if_false, and_self]

/-! ### Framer -/

/-- 1 + 25 + 25 + 1 events (R137). -/
theorem readEvents_length (a : Byte) (s : State) : (readEvents a s.answeredBits).length = 52 := by
  simp [readEvents, txEvents_length, rxEvents_length]

/-- The pins after a framed read: the window closed, the data pin an input, and the level of the command byte's last bit
in IO_OUT (R27, R136). -/
theorem foldl_readEvents (a : Byte) (s : State) (p : Pins) :
    (readEvents a s.answeredBits).foldl Event.onPins p =
      { sclkLvl := false, ceAsserted := false, ioDir := .inp, ioOut := a.getLsbD 7 } := by
  simp [readEvents, foldl_txEvents, foldl_rxEvents, Event.onPins]

/-- The body of RDREG, run to its end under any command word (R136, R137). -/
theorem execute_rdregBody {w : Word} {a : Byte} {s : State} (hf : s.flags.fatal = false)
    (hc : s.pins.ceAsserted = false) (ha : a ∈ rset) (hq : s.quiet 52) :
    execute w false (rdregBody a) s =
      { s with
        pins := { sclkLvl := false, ceAsserted := false, ioDir := .inp, ioOut := a.getLsbD 7 }
        rxbuf := s.answeredByte
        result := zext32 (bcdValue s.answeredByte)
        win := { len := 2#2, seq := 0b010#3, first := a }
        trace := s.trace ++ readEvents a s.answeredBits
        opCount := s.opCount + 52
        smpCount := s.smpCount + 8 }.answeredValue (zext32 (bcdValue s.answeredByte)) := by
  have hplays := rdregEvents_plays a s
  rw [← readEvents] at hplays
  rw [← readEvents_length a s] at hq
  obtain ⟨_, t, hr, hm, rfl, hw, hs⟩ := hplays.quiet hq
  have hb := rdregBody_eq a s hc ha
  rw [hr, bind_done] at hb
  rw [execute_done (by simp [hf]) hb, hm.eq, hw, hs, foldl_readEvents, readEvents_length,
    emptyWindow_append_sent_received]
  rfl

/-- A byte widened to a word has the byte's value (R12). -/
theorem toNat_zext32 (b : Byte) : (zext32 b).toNat = b.toNat :=
  BitVec.toNat_setWidth_of_le (by decide)

/-- A read command byte has its marker bit (R70, R81). -/
theorem getLsbD_seven_of_mem_rset : ∀ a ∈ rset, a.getLsbD 7 = true := by decide

/-- Settles O23: the raw byte is that of the next eight answers, and the value its decoding. -/
theorem rdregReadsOneRegister : Obligations.RdregReadsOneRegister := by
  intro a s hf hc ha hq
  refine ⟨s.answeredByte, zext32 (bcdValue s.answeredByte), fun _ => getLsbD_answeredByte s,
    by rw [toNat_zext32, toNat_bcdValue], ?_, readEvents_length a s⟩
  have hexecute := execute_rdregBody (w := hcwOf (.rdreg a)) hf hc ha hq
  rw [getLsbD_seven_of_mem_rset a ha] at hexecute
  exact (exec_eq _ s).trans (congrArg _ hexecute)

/-- A state that `n` operations have brought about is quiet for the rest of them. -/
theorem quiet_of_moved {s t : State} {n m l : Nat} (hp : t.params = s.params) (hd : t.draws = s.draws)
    (hn : t.opCount = s.opCount + n) (hq : s.quiet l) (hl : n + m ≤ l) : t.quiet m := fun k hk => by
  rw [failsAt_of_moved hp hd hn]
  exact hq _ (by omega)

/-- CSOFF in an open window of a valid shape, with no failing pin operation (R113). -/
theorem exec_csoff_of_validShape {s : State} (hf : s.flags.fatal = false) (hc : s.pins.ceAsserted = true)
    (hq : s.quiet 1) (hv : s.win.validShape = true) :
    exec .csoff s = .next
      ({ s with
        pins := { s.pins with ceAsserted := false }
        trace := s.trace ++ [Event.ce false]
        opCount := s.opCount + 1 }.answeredValue 0#32) :=
  (csoffClosesTheWindow s hf hc hq).trans (by rw [if_pos hv])

/-- Settles O24: each sequence leaves the window that the framed command leaves, of a valid shape, so that its
CSOFF succeeds. -/
theorem rawSequencesEmitTheFramedEvents : Obligations.RawSequencesEmitTheFramedEvents := by
  constructor
  · intro a d s hf hc ha hq
    refine ⟨_, _, _, _, _, csonOpensAWindow s hf hc fun k hk => hq k (by omega),
      (wrbyteSendsOneByte a _ ?_ rfl ?_).1, (wrbyteSendsOneByte d _ ?_ rfl ?_).1, exec_csoff_of_validShape ?_ rfl ?_ ?_,
      (wrregWritesOneRegister a d s hf hc ha hq).1, ?_⟩
    · exact hf
    · exact quiet_of_moved (s := s) (n := 1) rfl rfl rfl hq (by decide)
    · exact hf
    · exact quiet_of_moved (s := s) (n := 26) rfl rfl rfl hq (by decide)
    · exact hf
    · exact quiet_of_moved (s := s) (n := 51) rfl rfl rfl hq (by decide)
    · exact (congrArg Window.validShape (emptyWindow_append_sent_sent a d)).trans
        ((validShapesAreTheThree _).2 (.inl ⟨rfl, rfl, getLsbD_zero_of_mem_wset a ha⟩))
    exact ⟨by simp [State.answeredValue], rfl, emptyWindow_append_sent_sent a d, rfl, rfl, rfl⟩
  · intro a s hf hc ha hq
    refine ⟨_, _, _, _, _, csonOpensAWindow s hf hc fun k hk => hq k (by omega),
      (wrbyteSendsOneByte a _ ?_ rfl ?_).1, (exec_eq .rdbyte _).trans (congrArg _ (execute_rdbyteBody ?_ rfl ?_)),
      exec_csoff_of_validShape ?_ rfl ?_ ?_,
      (exec_eq (.rdreg a) s).trans (congrArg _ (execute_rdregBody hf hc ha hq)), ?_⟩
    · exact hf
    · exact quiet_of_moved (s := s) (n := 1) rfl rfl rfl hq (by decide)
    · exact hf
    · exact quiet_of_moved (s := s) (n := 26) rfl rfl rfl hq (by decide)
    · exact hf
    · exact quiet_of_moved (s := s) (n := 51) rfl rfl rfl hq (by decide)
    · exact (congrArg Window.validShape (emptyWindow_append_sent_received a _)).trans
        ((validShapesAreTheThree _).2 (.inr (.inl ⟨rfl, rfl, getLsbD_zero_of_mem_rset a ha⟩)))
    exact ⟨by simp [State.answeredValue, readEvents]; rfl, rfl, emptyWindow_append_sent_received a _, rfl, rfl,
      toNat_zext32 _, (toNat_zext32 _).trans (toNat_bcdValue _)⟩

/-- Settles O25: the body's events are those of the burst command byte in a window of its own. -/
theorem startSendsTheBurstByte : Obligations.StartSendsTheBurstByte := by
  intro s hf hc hq
  obtain ⟨_, t, hb, hm, rfl, hw, hs⟩ := (startBody_plays s hc).quiet hq
  have hb : bodyOf .start s = .done 0#32 t := hb
  rw [exec_eq, execute_done (by simp [hf]) hb, hm.eq, hw, hs, emptyWindow_append_sent]
  rfl

/-! ### BCD and the block registers -/

/-- Settles O27: the body packs 0..99, and the check finds `INVALID_ARGUMENT` for the others. -/
theorem bcdencEncodesOrRefuses : Obligations.BcdencEncodesOrRefuses := by
  intro v s hf
  refine ⟨fun ⟨h0, h99⟩ => ⟨zext32 (bcdPack v.toInt), ?_, ?_⟩, fun hv => exec_of_checkError hf (if_neg (by omega))⟩
  · rw [toNat_zext32, toNat_bcdPack h0 h99]
  · rw [exec_eq]
    exact congrArg _ (execute_bcdencBody hf h0 h99)

/-- Settles O28: the body has no check, and decodes any byte. -/
theorem bcddecDecodesEveryByte : Obligations.BcddecDecodesEveryByte := by
  intro d s hf
  have hb : bodyOf (.bcddec d) s = .done (zext32 (bcdValue d)) (s.setResult (zext32 (bcdValue d))) := rfl
  refine ⟨zext32 (bcdValue d), by rw [toNat_zext32, toNat_bcdValue], ?_⟩
  rw [exec_eq, execute_done (by simp [hf]) hb]
  rfl

/-- Fields put one after the other stand at their places (R29, R32). -/
theorem toNat_append_eq {m n : Nat} (x : BitVec m) (y : BitVec n) : (x ++ y).toNat = x.toNat * 2 ^ n + y.toNat := by
  rw [BitVec.toNat_append, ← Nat.shiftLeft_add_eq_or_of_lt y.isLt, Nat.shiftLeft_eq]

theorem toNat_ofBool_eq (b : Bool) : (BitVec.ofBool b).toNat = bitValue b := by cases b <;> rfl

/-- STATUS is the sum of its fields at their places (R29). -/
theorem statusWord_eq (s : State) : statusWord s = BitVec.ofNat 32 (statusNumber s) := by
  have hdir : s.pins.ioDir.bit = (s.pins.ioDir == .out) := by cases s.pins.ioDir <;> rfl
  have hnum : (statusWord s).toNat = statusNumber s := by
    simp only [statusWord, statusNumber, toNat_append_eq, toNat_ofBool_eq, hdir, BitVec.toNat_ofNat]
    omega
  rw [← hnum, BitVec.ofNat_toNat, BitVec.setWidth_eq]

/-- WIN is the sum of its fields at their places (R32). -/
theorem winWord_eq (s : State) : winWord s = BitVec.ofNat 32 (winNumber s) := by
  have hnum : (winWord s).toNat = winNumber s := by
    simp only [winWord, winNumber, toNat_append_eq, BitVec.toNat_ofNat]
    omega
  rw [← hnum, BitVec.ofNat_toNat, BitVec.setWidth_eq]

/-- Settles O30: STATUS and WIN are put together from fields of fixed places; the other registers are read as they
stand. -/
theorem csrrdReadsTheBlockRegisters : Obligations.CsrrdReadsTheBlockRegisters := by
  intro n s hn
  apply exec_csrrd_of_some
  have hcases : ∀ n : Byte, n.toNat ≤ 4 → n = 0x00#8 ∨ n = 0x01#8 ∨ n = 0x02#8 ∨ n = 0x03#8 ∨ n = 0x04#8 := by
    decide
  obtain rfl | rfl | rfl | rfl | rfl := hcases n hn
  · exact congrArg some (statusWord_eq s)
  · exact congrArg some (BitVec.ofNat_toNat ..).symm
  · rfl
  · exact congrArg some (winWord_eq s)
  · rfl

/-! ### Frames -/

/-- `execute` answers a fatal block, or ends as the body does (R226, R229). -/
theorem execute_cases (w : Word) (x : Bool) (body : State → Run Word) (s : State) :
    execute w x body s = s.answeredFatal ∨
    (∃ v u, body s = .done v u ∧ execute w x body s = u.respond 0#4 v) ∨
    ∃ e u, body s = .raised e u ∧ execute w x body s = (u.setFlags (u.flags.note e w)).respond e.num 0#32 := by
  unfold execute
  split
  · exact .inl rfl
  · cases body s with
    | done v u => exact .inr (.inl ⟨v, u, rfl, rfl⟩)
    | raised e u => exact .inr (.inr ⟨e, u, rfl, rfl⟩)

/-- The three commands without events: BCDENC, BCDDEC and CSRRD. -/
def IsCodecOrCsrrd (i : Instr) : Prop := (∃ v, i = .bcdenc v) ∨ (∃ d, i = .bcddec d) ∨ ∃ n, i = .csrrd n

/-- They write nothing but RESULT when they succeed, and CSRRD not even that (R65, R170). -/
theorem codec_done {i : Instr} {s u : State} {v : Word} (hi : IsCodecOrCsrrd i) (hb : bodyOf i s = .done v u) :
    ∃ r, u = s.setResult r ∧ ((∃ n, i = .csrrd n) → r = s.result) := by
  obtain ⟨v, rfl⟩ | ⟨d, rfl⟩ | ⟨n, rfl⟩ := hi
  · simp only [bodyOf, bcdencBody] at hb
    split at hb <;> cases hb
    exact ⟨_, rfl, nofun⟩
  · cases hb
    exact ⟨_, rfl, nofun⟩
  · simp only [bodyOf, csrrdBody] at hb
    split at hb <;> cases hb
    exact ⟨s.result, rfl, fun _ => rfl⟩

/-- They write nothing when they fail. -/
theorem codec_raised {i : Instr} {s u : State} {e : ErrorCode} (hi : IsCodecOrCsrrd i) (hb : bodyOf i s = .raised e u) :
    u = s := by
  obtain ⟨v, rfl⟩ | ⟨d, rfl⟩ | ⟨n, rfl⟩ := hi
  · simp only [bodyOf, bcdencBody] at hb
    split at hb <;> cases hb
    rfl
  · cases hb
  · simp only [bodyOf, csrrdBody] at hb
    split at hb <;> cases hb
    rfl

/-- Settles O33: the three bodies write RESULT at most. -/
theorem codecAndCsrrdFrame : Obligations.CodecAndCsrrdFrame := by
  intro i s t hi h
  cases (exec_eq i s).symm.trans h
  obtain hend | ⟨v, u, hb, hend⟩ | ⟨e, u, hb, hend⟩ := execute_cases (hcwOf i) (isCsrrd i) (bodyOf i) s <;> rw [hend]
  · exact ⟨rfl, rfl, rfl, rfl, rfl, rfl, fun _ => rfl⟩
  · obtain ⟨r, rfl, hr⟩ := codec_done hi hb
    exact ⟨rfl, rfl, rfl, rfl, rfl, rfl, hr⟩
  · obtain rfl := codec_raised hi hb
    exact ⟨rfl, rfl, rfl, rfl, rfl, rfl, fun _ => rfl⟩

/-- The events of a command leave a part of the pins that none of them writes (R24 to R27). -/
theorem foldl_onPins_keeps {α : Type} (part : Pins → α) (evs : List Event)
    (h : ∀ e ∈ evs, ∀ p, part (e.onPins p) = part p) (p : Pins) : part (evs.foldl Event.onPins p) = part p := by
  induction evs generalizing p with
  | nil => rfl
  | cons e evs ih =>
    rw [List.foldl_cons, ih (fun e he => h e (List.mem_cons_of_mem _ he)), h e List.mem_cons_self]

theorem ends_pins_keep {α : Type} (part : Pins → α) {i : Instr} {s t : State} (h : exec i s = .next t)
    (hpart : ∀ e ∈ commandEvents i s, ∀ p, part (e.onPins p) = part p) : part t.pins = part s.pins := by
  obtain ⟨k, -, hpins⟩ := ends_pins (exec_inversion h)
  rw [hpins]
  exact foldl_onPins_keeps part _ (fun e he => hpart e (List.mem_of_mem_take he)) _

theorem txEvents_ceAsserted (x : Byte) : ∀ e ∈ txEvents x, ∀ p, (e.onPins p).ceAsserted = p.ceAsserted := by
  simp [txEvents, bitsLsb, Event.onPins]

/-- Settles O35: of each command's events none writes the part of the pins in question, and neither does a beginning
of them. -/
theorem transportPinFrame : Obligations.TransportPinFrame := by
  refine ⟨fun s t h => ⟨?_, ?_⟩, fun i s t hi h => ⟨?_, ?_, ?_⟩, fun i s t hi h => ?_⟩
  · exact ends_pins_keep Pins.ioOut h (by simp [commandEvents, rxEvents, State.answeredBits, Event.onPins])
  · exact ends_pins_keep Pins.ceAsserted h (by simp [commandEvents, rxEvents, State.answeredBits, Event.onPins])
  · exact ends_pins_keep Pins.sclkLvl h (by obtain rfl | rfl := hi <;> simp [commandEvents, Event.onPins])
  · exact ends_pins_keep Pins.ioDir h (by obtain rfl | rfl := hi <;> simp [commandEvents, Event.onPins])
  · exact ends_pins_keep Pins.ioOut h (by obtain rfl | rfl := hi <;> simp [commandEvents, Event.onPins])
  · have hevents : ∃ b, commandEvents i s = txEvents b := by
      obtain ⟨d, rfl⟩ | hi := hi
      · exact ⟨d, rfl⟩
      · obtain ⟨b, hb⟩ := Option.isSome_iff_exists.1 hi
        exact ⟨b, commandEvents_of_commandByteOf hb s⟩
    obtain ⟨b, hb⟩ := hevents
    exact ends_pins_keep Pins.ceAsserted h (hb ▸ txEvents_ceAsserted b)

end Sys2Proof.Proofs
end

section
/-! Family other, what cannot influence what: two runs of one command from related states end in related states
(spec/10_state.md R35, spec/40_transport.md R103), and what follows for the tracker (R108) and for the commands that only
send (spec/10_state.md R41). -/

namespace Sys2Proof.Proofs

open Sys2Proof Sys2Proof.Machine Sys2Proof.Laws

/-! ### Two runs of one micro-sequence -/

/-- Two runs end alike: both return, with values that `A` relates, or both raise one error; and `R` relates their
states. -/
def RunsAlike {α : Type} (A : α → α → Prop) (R : State → State → Prop) : Run α → Run α → Prop
  | .done a s, .done b t => A a b ∧ R s t
  | .raised e s, .raised f t => e = f ∧ R s t
  | _, _ => False

/-- Parts that end alike, put one after the other (R13). -/
theorem RunsAlike.bind {α β : Type} {A : α → α → Prop} {B : β → β → Prop} {R : State → State → Prop} {r r' : Run α}
    {f f' : α → State → Run β} (h : RunsAlike A R r r')
    (g : ∀ a a' s s', A a a' → R s s' → RunsAlike B R (f a s) (f' a' s')) :
    RunsAlike B R (r.bind f) (r'.bind f') := by
  cases r <;> cases r'
  · exact g _ _ _ _ h.1 h.2
  · exact h.elim
  · exact h.elim
  · exact h

/-- Values related by `A` are values related by whatever `A` implies. -/
theorem RunsAlike.weaken {α : Type} {A B : α → α → Prop} {R : State → State → Prop} {r r' : Run α}
    (h : RunsAlike A R r r') (g : ∀ a a', A a a' → B a a') : RunsAlike B R r r' := by
  cases r <;> cases r'
  · exact ⟨g _ _ h.1, h.2⟩
  · exact h
  · exact h
  · exact h

/-- `R` relates states that no sending micro-operation can tell apart, and each keeps it. -/
structure SendsAlike (R : State → State → Prop) : Prop where
  pins : ∀ {s t}, R s t → t.pins = s.pins
  win : ∀ {s t}, R s t → t.win = s.win
  opFails : ∀ {s t}, R s t → t.opFails = s.opFails
  countOp : ∀ {s t}, R s t → R s.countOp t.countOp
  emit : ∀ {s t} e, R s t → R (s.emit e) (t.emit e)
  clear : ∀ {s t}, R s t → R (s.setWin emptyWindow) (t.setWin emptyWindow)
  append : ∀ {s t} b, R s t → R (s.appendByte false b) (t.appendByte false b)

/-- The same of the receiving micro-operations; what the block reads is the same in both runs only if `same` holds. -/
structure ReadsAlike (same : Prop) (R : State → State → Prop) : Prop extends SendsAlike R where
  answer : ∀ {s t}, R s t → same → s.answer = t.answer
  countSample : ∀ {s t}, R s t → R s.countSample t.countSample
  emitSample : ∀ {s t} b b', R s t → (same → b = b') → R (s.emit (.smp b)) (t.emit (.smp b'))
  appendReceived : ∀ {s t} b b', R s t → (same → b = b') → R (s.appendByte true b) (t.appendByte true b')
  setRxbuf : ∀ {s t} b b', R s t → (same → b = b') → R (s.setRxbuf b) (t.setRxbuf b')
  setResult : ∀ {s t} w w', R s t → (same → w = w') → R (s.setResult w) (t.setResult w')

section
variable {R : State → State → Prop} {s t : State}

theorem pinOp_alike (h : SendsAlike R) (e : Event) (hR : R s t) : RunsAlike Eq R (pinOp e s) (pinOp e t) := by
  unfold pinOp
  rw [h.opFails hR]
  split
  · exact ⟨rfl, h.countOp hR⟩
  · exact ⟨rfl, h.emit e (h.countOp hR)⟩

theorem pulse_alike (h : SendsAlike R) (hR : R s t) : RunsAlike Eq R (pulse s) (pulse t) :=
  (pinOp_alike h _ hR).bind fun _ _ _ _ _ hR => pinOp_alike h _ hR

theorem drive_alike (h : SendsAlike R) (l : Bool) (hR : R s t) : RunsAlike Eq R (drive l s) (drive l t) := by
  unfold drive
  rw [h.pins hR]
  split
  · exact pinOp_alike h _ hR
  · exact ⟨rfl, hR⟩

theorem sendBits_alike (h : SendsAlike R) (bs : List Bool) (hR : R s t) :
    RunsAlike Eq R (sendBits bs s) (sendBits bs t) := by
  induction bs generalizing s t with
  | nil => exact ⟨rfl, hR⟩
  | cons b bs ih =>
    exact (drive_alike h b hR).bind fun _ _ _ _ _ hR => (pulse_alike h hR).bind fun _ _ _ _ _ hR => ih hR

theorem tx_alike (h : SendsAlike R) (x : Byte) (hR : R s t) : RunsAlike Eq R (tx x s) (tx x t) :=
  (pinOp_alike h _ hR).bind fun _ _ _ _ _ hR =>
    (sendBits_alike h _ hR).bind fun _ _ _ _ _ hR => ⟨rfl, h.append x hR⟩

theorem ceOn_alike (h : SendsAlike R) (hR : R s t) : RunsAlike Eq R (ceOn s) (ceOn t) :=
  (pinOp_alike h _ hR).bind fun _ _ _ _ _ hR => ⟨rfl, h.clear hR⟩

theorem csonBody_alike (h : SendsAlike R) (hR : R s t) : RunsAlike Eq R (csonBody s) (csonBody t) := by
  unfold csonBody
  rw [h.pins hR]
  split
  · exact ⟨rfl, hR⟩
  · exact (ceOn_alike h hR).bind fun _ _ _ _ _ hR => ⟨rfl, hR⟩

theorem csoffBody_alike (h : SendsAlike R) (hR : R s t) : RunsAlike Eq R (csoffBody s) (csoffBody t) := by
  unfold csoffBody
  rw [h.pins hR]
  split
  · refine (pinOp_alike h _ hR).bind fun _ _ s1 t1 _ hR => ?_
    beta_reduce
    rw [h.win hR]
    split
    · exact ⟨rfl, hR⟩
    · exact ⟨rfl, hR⟩
  · exact ⟨rfl, hR⟩

theorem wrbyteBody_alike (h : SendsAlike R) (d : Byte) (hR : R s t) :
    RunsAlike Eq R (wrbyteBody d s) (wrbyteBody d t) := by
  unfold wrbyteBody
  rw [h.pins hR]
  split
  · exact (tx_alike h d hR).bind fun _ _ _ _ _ hR => ⟨rfl, hR⟩
  · exact ⟨rfl, hR⟩

theorem wrregBody_alike (h : SendsAlike R) (a d : Byte) (hR : R s t) :
    RunsAlike Eq R (wrregBody a d s) (wrregBody a d t) := by
  unfold wrregBody
  rw [h.pins hR]
  split_ifs
  · exact ⟨rfl, hR⟩
  · exact (ceOn_alike h hR).bind fun _ _ _ _ _ hR => (tx_alike h a hR).bind fun _ _ _ _ _ hR =>
      (tx_alike h d hR).bind fun _ _ _ _ _ hR => (pinOp_alike h _ hR).bind fun _ _ _ _ _ hR => ⟨rfl, hR⟩
  · exact ⟨rfl, hR⟩

theorem startBody_alike (h : SendsAlike R) (hR : R s t) : RunsAlike Eq R (startBody s) (startBody t) := by
  unfold startBody
  rw [h.pins hR]
  split
  · exact ⟨rfl, hR⟩
  · exact (ceOn_alike h hR).bind fun _ _ _ _ _ hR => (tx_alike h _ hR).bind fun _ _ _ _ _ hR =>
      (pinOp_alike h _ hR).bind fun _ _ _ _ _ hR => ⟨rfl, hR⟩

variable {same : Prop}

theorem sample_alike (h : ReadsAlike same R) (hR : R s t) :
    RunsAlike (fun b b' => same → b = b') R (sample s) (sample t) := by
  unfold sample
  rw [h.pins hR]
  split
  · have hop : RunsAlike Eq R (pinOp (.smp s.answer) s.countSample) (pinOp (.smp t.answer) t.countSample) := by
      have hR' := h.countSample hR
      unfold pinOp
      rw [h.opFails hR']
      split
      · exact ⟨rfl, h.countOp hR'⟩
      · exact ⟨rfl, h.emitSample _ _ (h.countOp hR') (h.answer hR)⟩
    exact hop.bind fun _ _ _ _ _ hR' => ⟨h.answer hR, hR'⟩
  · exact ⟨rfl, hR⟩

theorem receiveBits_alike (h : ReadsAlike same R) (is : List Nat) {acc acc' : Byte} (hacc : same → acc = acc')
    (hR : R s t) : RunsAlike (fun b b' => same → b = b') R (receiveBits is acc s) (receiveBits is acc' t) := by
  induction is generalizing s t acc acc' with
  | nil => exact ⟨hacc, hR⟩
  | cons i is ih =>
    exact (sample_alike h hR).bind fun b b' _ _ hb hR => (pulse_alike h.toSendsAlike hR).bind fun _ _ _ _ _ hR =>
      ih (fun hsame => by rw [hacc hsame, hb hsame]) hR

theorem rx_alike (h : ReadsAlike same R) (hR : R s t) :
    RunsAlike (fun b b' => same → b = b') R (rx s) (rx t) :=
  (pinOp_alike h.toSendsAlike _ hR).bind fun _ _ _ _ _ hR =>
    (receiveBits_alike h _ (fun _ => rfl) hR).bind fun b b' _ _ hb hR => ⟨hb, h.appendReceived b b' hR hb⟩

theorem rdbyteBody_alike (h : ReadsAlike same R) (hR : R s t) :
    RunsAlike (fun v v' => same → v = v') R (rdbyteBody s) (rdbyteBody t) := by
  unfold rdbyteBody
  rw [h.pins hR]
  split
  · exact (rx_alike h hR).bind fun b b' _ _ hb hR =>
      have hv : same → zext32 b = zext32 b' := fun hsame => congrArg zext32 (hb hsame)
      ⟨hv, h.setResult _ _ (h.setRxbuf b b' hR hb) hv⟩
  · exact ⟨rfl, hR⟩

theorem rdregBody_alike (h : ReadsAlike same R) (a : Byte) (hR : R s t) :
    RunsAlike (fun v v' => same → v = v') R (rdregBody a s) (rdregBody a t) := by
  unfold rdregBody
  rw [h.pins hR]
  split_ifs
  · exact ⟨rfl, hR⟩
  · exact (ceOn_alike h.toSendsAlike hR).bind fun _ _ _ _ _ hR => (tx_alike h.toSendsAlike a hR).bind fun _ _ _ _ _ hR =>
      (rx_alike h hR).bind fun b b' _ _ hb hR => (pinOp_alike h.toSendsAlike _ hR).bind fun _ _ _ _ _ hR =>
        have hv : same → zext32 (bcdValue b) = zext32 (bcdValue b') := fun hsame => by rw [hb hsame]
        ⟨hv, h.setResult _ _ (h.setRxbuf b b' hR hb) hv⟩
  · exact ⟨rfl, hR⟩

end

/-! ### Two runs of one command -/

/-- The commands that only send (R41), the command bytes with them (notes/assumptions/1.md). -/
def IsSending (i : Instr) : Prop :=
  i = .cson ∨ i = .csoff ∨ (∃ d, i = .wrbyte d) ∨ (∃ a d, i = .wrreg a d) ∨ i = .start ∨ (commandByteOf i).isSome

/-- Every command only sends, or has no event, or reads. -/
theorem isSending_or (i : Instr) : IsSending i ∨ IsCodecOrCsrrd i ∨ i = .rdbyte ∨ ∃ a, i = .rdreg a := by
  cases i <;> simp [IsSending, IsCodecOrCsrrd, commandByteOf]

/-- A command that only sends ends alike from states that no sending micro-operation can tell apart. -/
theorem sending_alike {R : State → State → Prop} (h : SendsAlike R) {i : Instr} (hi : IsSending i) {s t : State}
    (hR : R s t) : RunsAlike Eq R (bodyOf i s) (bodyOf i t) := by
  obtain rfl | rfl | ⟨d, rfl⟩ | ⟨a, d, rfl⟩ | rfl | hi := hi
  · exact csonBody_alike h hR
  · exact csoffBody_alike h hR
  · exact wrbyteBody_alike h d hR
  · exact wrregBody_alike h a d hR
  · exact startBody_alike h hR
  · obtain ⟨b, hb⟩ := Option.isSome_iff_exists.1 hi
    rw [bodyOf_of_commandByteOf hb]
    exact wrbyteBody_alike h b hR

/-- Two runs of a command end alike when its bodies do and FATAL is the same. -/
theorem execute_alike {R Q : State → State → Prop} {A : Word → Word → Prop} {w : Word} {x : Bool}
    {body : State → Run Word} {s t : State} (hfatal : t.flags.fatal = s.flags.fatal)
    (hb : RunsAlike A R (body s) (body t)) (hanswered : Q s.answeredFatal t.answeredFatal)
    (hdone : ∀ u u' v v', A v v' → R u u' → Q (u.respond 0#4 v) (u'.respond 0#4 v'))
    (hraised : ∀ u u' e, R u u' → Q ((u.setFlags (u.flags.note e w)).respond e.num 0#32)
      ((u'.setFlags (u'.flags.note e w)).respond e.num 0#32)) :
    Q (execute w x body s) (execute w x body t) := by
  unfold execute
  rw [hfatal]
  split
  · exact hanswered
  · cases hs : body s <;> cases ht : body t <;> rw [hs, ht] at hb
    · exact hdone _ _ _ _ hb.1 hb.2
    · exact hb.elim
    · exact hb.elim
    · obtain ⟨rfl, hR⟩ := hb
      exact hraised _ _ _ hR

/-- BCDENC, BCDDEC and CSRRD end alike where the block registers read the same. -/
theorem codec_alike {R : State → State → Prop} {i : Instr} {s t : State} (hi : IsCodecOrCsrrd i)
    (hset : ∀ {s t} w, R s t → R (s.setResult w) (t.setResult w)) (hcsr : ∀ n, i = .csrrd n → csrValue n t = csrValue n s)
    (hR : R s t) : RunsAlike Eq R (bodyOf i s) (bodyOf i t) := by
  obtain ⟨v, rfl⟩ | ⟨d, rfl⟩ | ⟨n, rfl⟩ := hi
  · simp only [bodyOf, bcdencBody]
    split
    · exact ⟨rfl, hset _ hR⟩
    · exact ⟨rfl, hR⟩
  · exact ⟨rfl, hset _ hR⟩
  · simp only [bodyOf, csrrdBody, hcsr n rfl]
    split
    · exact ⟨rfl, hR⟩
    · exact ⟨rfl, hR⟩

/-- Every command ends alike from states that read the same. -/
theorem body_alike {R : State → State → Prop} (h : ReadsAlike True R) {i : Instr} {s t : State}
    (hcsr : ∀ n, i = .csrrd n → csrValue n t = csrValue n s) (hR : R s t) :
    RunsAlike (fun v v' => True → v = v') R (bodyOf i s) (bodyOf i t) := by
  obtain hi | hi | rfl | ⟨a, rfl⟩ := isSending_or i
  · exact (sending_alike h.toSendsAlike hi hR).weaken fun _ _ hv _ => hv
  · exact (codec_alike hi (fun w hR => h.setResult w w hR fun _ => rfl) hcsr hR).weaken fun _ _ hv _ => hv
  · exact rdbyteBody_alike h hR
  · exact rdregBody_alike h a hR

/-! ### What a command keeps -/

/-- A property that the micro-operations keep, as a relation of a state to itself. -/
theorem sendsAlike_self {P : State → Prop} (countOp : ∀ s, P s → P s.countOp) (emit : ∀ s e, P s → P (s.emit e))
    (clear : ∀ s, P s → P (s.setWin emptyWindow)) (append : ∀ s b, P s → P (s.appendByte false b)) :
    SendsAlike fun s t => s = t ∧ P s where
  pins h := by rw [h.1]
  win h := by rw [h.1]
  opFails h := by rw [h.1]
  countOp h := ⟨by rw [h.1], countOp _ h.2⟩
  emit e h := ⟨by rw [h.1], emit _ e h.2⟩
  clear h := ⟨by rw [h.1], clear _ h.2⟩
  append b h := ⟨by rw [h.1], append _ b h.2⟩

/-- Settles O34: no sending micro-operation writes RESULT, RXBUF or the count of samples. -/
theorem sendingCommandsFrame : Obligations.SendingCommandsFrame := by
  intro i s t hi h
  cases (exec_eq i s).symm.trans h
  have halike := sendsAlike_self (P := fun u => u.result = s.result ∧ u.rxbuf = s.rxbuf ∧ u.smpCount = s.smpCount)
    (fun _ h => h) (fun _ _ h => h) (fun _ h => h) fun _ _ h => h
  exact execute_alike (Q := fun u _ => u.result = s.result ∧ u.rxbuf = s.rxbuf ∧ u.smpCount = s.smpCount) rfl
    (sending_alike halike hi ⟨rfl, rfl, rfl, rfl⟩) ⟨rfl, rfl, rfl⟩ (fun _ _ _ _ _ h => h.2) fun _ _ _ h => h.2

/-- The byte's own bit of WIN_SEQ is the highest that it can set (R108). -/
theorem setSeqBit_lt : ∀ (len : BitVec 2) (seq : BitVec 3) (r : Bool), seq.toNat < 2 ^ len.toNat → len.toNat < 3 →
    (setSeqBit seq len.toNat r).toNat < 2 ^ (len.toNat + 1) := by decide

/-- Appending a byte keeps the tracker consistent: a first byte that was received leaves WIN_FIRST at 0 (R108). -/
theorem trackerConsistent_append {s : State} (h : s.TrackerConsistent) (r : Bool) (b : Byte) :
    (s.appendByte r b).TrackerConsistent := by
  obtain ⟨hseq, hfirst⟩ := h
  obtain ⟨hfirst', hshort, hfull⟩ := trackerAppendsOneByte s.win r b
  unfold State.TrackerConsistent
  rw [appendByte_win, hfirst']
  obtain hlt | hlen : s.win.len.toNat < 3 ∨ s.win.len.toNat = 3 := by omega
  · obtain ⟨hlen', hbit, hother⟩ := hshort hlt
    refine ⟨?_, fun h => ?_⟩
    · rw [hlen']
      simpa only [Window.append, hlt, if_true] using setSeqBit_lt s.win.len s.win.seq r hseq hlt
    · have hbit0 : (s.win.append r b).seq.getLsbD 0 = true := by
        refine h.resolve_left fun hzero => ?_
        rw [hzero] at hlen'
        exact absurd hlen' (by simp)
      by_cases hempty : s.win.len = 0#2
      · rw [hempty] at hbit
        have hr : r = true := hbit.symm.trans hbit0
        rw [if_neg (by simp [hr])]
        exact hfirst (.inl hempty)
      · rw [if_neg (by simp [hempty])]
        have hne : 0 ≠ s.win.len.toNat := fun hzero => hempty (BitVec.eq_of_toNat_eq hzero.symm)
        exact hfirst (.inr (hother 0 hne ▸ hbit0))
  · obtain ⟨hlen', hseq'⟩ := hfull hlen
    have hne : s.win.len ≠ 0#2 := fun hzero => by simp [hzero] at hlen
    rw [hlen', hseq', if_neg (by simp [hne])]
    exact ⟨hseq, hfirst⟩

/-- Settles O44: the tracker is kept, cleared, or has a byte appended, and each keeps it consistent. -/
theorem stepKeepsTrackerConsistent : Obligations.StepKeepsTrackerConsistent := by
  intro s t hs h
  refine step_keeps hs h (fun _ _ h => h) (fun i s t hs h => ?_) (fun _ _ h => h) fun s w _ h => h
  cases (exec_eq i s).symm.trans h
  have halike : ReadsAlike True fun s t => s = t ∧ s.TrackerConsistent :=
    { sendsAlike_self (fun _ h => h) (fun _ _ h => h) (fun _ _ => ⟨Nat.one_pos, fun _ => rfl⟩)
        fun _ b h => trackerConsistent_append h false b with
      answer := fun h _ => by rw [h.1]
      countSample := fun h => ⟨by rw [h.1], h.2⟩
      emitSample := fun b b' h hb => ⟨by rw [h.1, hb trivial], h.2⟩
      appendReceived := fun b b' h hb => ⟨by rw [h.1, hb trivial], trackerConsistent_append h.2 true b⟩
      setRxbuf := fun b b' h hb => ⟨by rw [h.1, hb trivial], h.2⟩
      setResult := fun w w' h hw => ⟨by rw [h.1, hw trivial], h.2⟩ }
  exact execute_alike (Q := fun u _ => u.TrackerConsistent) rfl (body_alike halike (fun _ _ => rfl) ⟨rfl, hs⟩) hs
    (fun _ _ _ _ _ h => h.2) fun _ _ _ h => h.2

/-! ### What a command cannot see -/

/-- The flags reach nothing but the register that CSRRD reads. -/
theorem readsAlike_setFlags (f : Flags) : ReadsAlike True fun s t => t = s.setFlags f where
  pins h := by rw [h]; rfl
  win h := by rw [h]; rfl
  opFails h := by rw [h]; rfl
  countOp h := by rw [h]; rfl
  emit e h := by rw [h]; rfl
  clear h := by rw [h]; rfl
  append b h := by rw [h]; rfl
  answer h _ := by rw [h]; rfl
  countSample h := by rw [h]; rfl
  emitSample b b' h hb := by rw [h, hb trivial]; rfl
  appendReceived b b' h hb := by rw [h, hb trivial]; rfl
  setRxbuf b b' h hb := by rw [h, hb trivial]; rfl
  setResult w w' h hw := by rw [h, hw trivial]; rfl

/-- Settles O49: from states that differ in the flags alone the bodies end alike, and the end writes only flags by
them. -/
theorem stickyBitsChangeNoResult : Obligations.StickyBitsChangeNoResult := by
  intro i s t f hi hf h
  cases (exec_eq i s).symm.trans h
  have hbody := body_alike (readsAlike_setFlags f) (s := s) (fun n hn => absurd hn (hi n)) rfl
  obtain ⟨g, hg⟩ := execute_alike (w := hcwOf i) (x := isCsrrd i) (Q := fun u u' => ∃ g, u' = { u with flags := g }) hf
    hbody ⟨f, rfl⟩ (fun u u' v v' hv hu => ⟨f, by rw [hu, hv trivial]; rfl⟩)
    fun u u' e hu => ⟨f.note e (hcwOf i), by rw [hu]; rfl⟩
  exact ⟨g, (exec_eq i _).trans (congrArg _ hg)⟩

/-- The same state, with other answers of the peer written down. -/
def withAnswers (l : List Bool) (s : State) : State := { s with draws := { s.draws with answers := l } }

/-- The peer's answers reach no sending micro-operation (R103). -/
theorem sendsAlike_withAnswers (l : List Bool) : SendsAlike fun s t => t = withAnswers l s where
  pins h := by rw [h]; rfl
  win h := by rw [h]; rfl
  opFails h := by rw [h]; rfl
  countOp h := by rw [h]; rfl
  emit e h := by rw [h]; rfl
  clear h := by rw [h]; rfl
  append b h := by rw [h]; rfl

/-- Two states that differ in what the block has read alone. -/
structure SameButReads (s t : State) : Prop where
  params : t.params = s.params
  faults : t.draws.faults = s.draws.faults
  pins : t.pins = s.pins
  win : t.win = s.win
  flags : t.flags = s.flags
  opCount : t.opCount = s.opCount
  smpCount : t.smpCount = s.smpCount
  trace : t.trace.map Event.shape = s.trace.map Event.shape
  codes : t.responses.map Response.e = s.responses.map Response.e

/-- A received byte enters the tracker by its kind alone: it is never the first byte recorded (R108). -/
theorem append_received (w : Window) (b b' : Byte) : w.append true b = w.append true b' := by
  simp [Window.append]

/-- What the block has read reaches no pin, no flag, no counter and no tracker (R28, R103, R135). -/
theorem readsAlike_sameButReads : ReadsAlike False SameButReads where
  pins h := h.pins
  win h := h.win
  opFails h := by simp [State.opFails, Draws.fails, h.params, h.faults, h.opCount]
  countOp h := { h with opCount := congrArg (· + 1) h.opCount }
  emit e h := { h with pins := congrArg e.onPins h.pins, trace := by simp [h.trace] }
  clear h := { h with win := rfl }
  append b h := { h with win := congrArg (Window.append · false b) h.win }
  answer _ := False.elim
  countSample h := { h with smpCount := congrArg (· + 1) h.smpCount }
  emitSample b b' h _ := { h with pins := h.pins, trace := by simp [h.trace, Event.shape] }
  appendReceived b b' h _ := { h with win := by simp [h.win, append_received _ b b'] }
  setRxbuf _ _ h _ := { h with }
  setResult _ _ h _ := { h with }

/-- A command that does not read ends in the same state whatever the peer's answers, but for those answers. -/
theorem execute_withAnswers {i : Instr} (hi : IsSending i ∨ IsCodecOrCsrrd i) (l : List Bool) (s : State) :
    execute (hcwOf i) (isCsrrd i) (bodyOf i) (withAnswers l s) =
      withAnswers l (execute (hcwOf i) (isCsrrd i) (bodyOf i) s) := by
  have hbody : RunsAlike Eq (fun s t => t = withAnswers l s) (bodyOf i s) (bodyOf i (withAnswers l s)) := by
    obtain hi | hi := hi
    · exact sending_alike (sendsAlike_withAnswers l) hi rfl
    · exact codec_alike hi (fun w h => by rw [h]; rfl) (fun _ _ => rfl) rfl
  exact execute_alike (Q := fun s t => t = withAnswers l s) rfl hbody rfl (fun u u' v v' hv hu => by rw [hu, hv]; rfl)
    fun u u' e hu => by rw [hu]; rfl

/-- A reading command ends in states that differ in what was read alone. -/
theorem execute_sameButReads {i : Instr} (hi : i = .rdbyte ∨ ∃ a, i = .rdreg a) {s t : State} (h : SameButReads s t) :
    SameButReads (execute (hcwOf i) (isCsrrd i) (bodyOf i) s) (execute (hcwOf i) (isCsrrd i) (bodyOf i) t) := by
  have hbody : RunsAlike (fun v v' => False → v = v') SameButReads (bodyOf i s) (bodyOf i t) := by
    obtain rfl | ⟨a, rfl⟩ := hi
    · exact rdbyteBody_alike readsAlike_sameButReads h
    · exact rdregBody_alike readsAlike_sameButReads a h
  exact execute_alike (congrArg Flags.fatal h.flags) hbody { h with codes := by simp [State.answeredFatal, h.codes] }
    (fun _ _ _ _ _ h => { h with codes := by simp [h.codes] })
    fun _ _ _ h => { h with flags := by simp [h.flags], codes := by simp [h.codes] }

/-- Settles O48: a command that does not read commutes with the choice of the answers, and the two that read end in
states that differ in what was read alone. -/
theorem peerReachesOnlyWhatIsRead : Obligations.PeerReachesOnlyWhatIsRead := by
  intro i s t l h
  cases (exec_eq i s).symm.trans h
  refine ⟨_, exec_eq i (withAnswers l s), ?_⟩
  have hkind : (IsSending i ∨ IsCodecOrCsrrd i) ∨ i = .rdbyte ∨ ∃ a, i = .rdreg a := or_assoc.2 (isSending_or i)
  obtain hi | hi := hkind
  · rw [execute_withAnswers hi]
    exact ⟨rfl, rfl, rfl, rfl, rfl, rfl, rfl, fun _ _ => rfl⟩
  · have hsame : SameButReads s (withAnswers l s) := ⟨rfl, rfl, rfl, rfl, rfl, rfl, rfl, rfl, rfl⟩
    obtain ⟨-, -, hpins, hwin, hflags, hops, hsamples, htrace, hcodes⟩ := execute_sameButReads hi hsame
    refine ⟨hpins, hwin, hflags, hops, hsamples, htrace, hcodes, fun hbyte hreg => ?_⟩
    exact (hi.elim hbyte fun ⟨a, ha⟩ => hreg a ha).elim

/-! ### The tracker after a pin fault -/

/-- A pin fault leaves the tracker that the command's body leaves. -/
theorem exec_win_of_raised {i : Instr} {s t u : State} {k : Nat} (hb : bodyOf i s = .raised .pinFault u)
    (hr : refusedWith i s = none) (hk : k < (commandEvents i s).length) (hf : s.firstFailsAt k)
    (h : exec i s = .next t) : t.win = u.win := by
  obtain ⟨u', -, hb', ht⟩ := exec_of_firstFailsAt hr hk hf h
  cases hb.symm.trans hb'
  rw [ht, respond_win, setFlags_win]

/-- The tracker of a framed window cut before its second byte is complete (R108, R232). -/
theorem framedWin_eq (w : Window) (a : Byte) (k : Nat) :
    framedWin w a k = if k = 0 then w else if k < 26 then { len := 0#2, seq := 0#3, first := 0#8 }
      else { len := 1#2, seq := 0#3, first := a } := by
  rw [framedWin, emptyWindow_append_sent]
  simp only [emptyWindow, Nat.lt_one_iff]

/-- The tracker `second` of a window whose second byte is complete, put before those of one cut earlier. -/
theorem framedWin_before (w second : Window) (a : Byte) (k : Nat) :
    (if k < 51 then framedWin w a k else second) =
      if k = 0 then w else if k < 26 then { len := 0#2, seq := 0#3, first := 0#8 }
      else if k < 51 then { len := 1#2, seq := 0#3, first := a } else second := by
  rw [framedWin_eq]
  by_cases hk : k < 51
  · simp only [hk, if_true]
  · have h0 : k ≠ 0 := by omega
    have h26 : ¬k < 26 := by omega
    simp only [hk, h0, h26, if_false]

theorem wrreg_win_of_firstFailsAt {a d : Byte} {s t : State} {k : Nat} (hr : refusedWith (.wrreg a d) s = none)
    (hk : k < 52) (hf : s.firstFailsAt k) (h : exec (.wrreg a d) s = .next t) :
    t.win = if k < 51 then framedWin s.win a k else { len := 2#2, seq := 0#3, first := a } := by
  obtain ⟨hc, ha⟩ := needsNoWindow_mem (refusedWith_none hr).2
  have hk' : k < (writeEvents a d).length := (writeEvents_length a d).symm ▸ hk
  obtain ⟨u, hb, -, hw⟩ := (wrregBody_plays a d s hc ha).fault k hk' hf
  rw [exec_win_of_raised (i := .wrreg a d) hb hr hk' hf h, hw, emptyWindow_append_sent_sent]

theorem rdreg_win_of_firstFailsAt {a : Byte} {s t : State} {k : Nat} (hr : refusedWith (.rdreg a) s = none)
    (hk : k < 52) (hf : s.firstFailsAt k) (h : exec (.rdreg a) s = .next t) :
    t.win = if k < 51 then framedWin s.win a k else { len := 2#2, seq := 0b010#3, first := a } := by
  obtain ⟨hc, ha⟩ := needsNoWindow_mem (refusedWith_none hr).2
  have hk' : k < (readEvents a s.answeredBits).length := (readEvents_length a s).symm ▸ hk
  obtain ⟨u, hu, -, hw⟩ := (rdregEvents_plays a s).fault k hk' hf
  have hb : bodyOf (.rdreg a) s = .raised .pinFault u := by rw [bodyOf, rdregBody_eq a s hc ha, hu, bind_raised]
  rw [exec_win_of_raised hb hr hk' hf h, hw, emptyWindow_append_sent_received]

theorem start_win_of_firstFailsAt {s t : State} {k : Nat} (hr : refusedWith .start s = none) (hk : k < 27)
    (hf : s.firstFailsAt k) (h : exec .start s = .next t) : t.win = framedWin s.win 0xBE#8 k := by
  obtain ⟨hc, -⟩ := needsNoWindow_none (refusedWith_none hr).2
  obtain ⟨u, hb, -, hw⟩ := (startBody_plays s hc).fault k hk hf
  exact (exec_win_of_raised (i := .start) hb hr hk hf h).trans hw

/-- A command of one event or one byte, cut by a pin fault, leaves the tracker (R108, R232). -/
theorem single_win_of_firstFailsAt {i : Instr} {s t : State} {k : Nat}
    (hi : i = .cson ∨ i = .csoff ∨ i = .rdbyte ∨ (∃ d, i = .wrbyte d) ∨ (commandByteOf i).isSome)
    (hr : refusedWith i s = none) (hk : k < (commandEvents i s).length) (hf : s.firstFailsAt k)
    (h : exec i s = .next t) : t.win = s.win := by
  have hcheck := (refusedWith_none hr).2
  obtain rfl | rfl | rfl | ⟨d, rfl⟩ | hi := hi
  · obtain ⟨u, hb, -, hw⟩ := (csonBody_plays s (needsNoWindow_none hcheck).1).fault k hk hf
    exact (exec_win_of_raised (i := .cson) hb hr hk hf h).trans hw
  · exact csoffKeepsTheTracker s t h
  · obtain ⟨u, hu, -, hw⟩ := (rx_plays s).fault k hk hf
    have hb : bodyOf .rdbyte s = .raised .pinFault u := by
      rw [bodyOf, rdbyteBody_eq s (needsWindow_none hcheck), hu, bind_raised]
    exact (exec_win_of_raised hb hr hk hf h).trans hw
  · obtain ⟨u, hb, -, hw⟩ := (wrbyteBody_plays_checked hcheck).fault k hk hf
    exact (exec_win_of_raised (i := .wrbyte d) hb hr hk hf h).trans hw
  · obtain ⟨b, hb⟩ := Option.isSome_iff_exists.1 hi
    have hevents := commandEvents_of_commandByteOf hb s
    have hopen : needsWindow s = none := by cases i <;> cases hb <;> exact hcheck
    obtain ⟨u, hu, -, hw⟩ := (wrbyteBody_plays_checked (d := b) hopen).fault k (hevents ▸ hk) hf
    rw [← bodyOf_of_commandByteOf hb] at hu
    exact (exec_win_of_raised hu hr hk hf h).trans hw

/-- Settles O39: the tracker that each micro-sequence leaves when its operation `k` fails. -/
theorem trackerHoldsOnlyCompletedBytes : Obligations.TrackerHoldsOnlyCompletedBytes := by
  refine ⟨fun a d s t k hr hk hf h => ?_, fun a s t k hr hk hf h => ?_, fun s t k hr hk hf h => ?_,
    fun i s t k hi hr hk hf h => single_win_of_firstFailsAt hi hr hk hf h⟩
  · exact (wrreg_win_of_firstFailsAt hr hk hf h).trans (framedWin_before _ _ a k)
  · exact (rdreg_win_of_firstFailsAt hr hk hf h).trans (framedWin_before _ _ a k)
  · exact (start_win_of_firstFailsAt hr hk hf h).trans (framedWin_eq _ _ k)

end Sys2Proof.Proofs
end

section
/-! Family other, the reference peer (spec/60_exceptions.md R245 to R252), which is informative (R254): what it has
received at the end of a framed window, and what a read gives and a write does. -/

namespace Sys2Proof.Proofs

open Sys2Proof Sys2Proof.Machine Sys2Proof.Laws

/-- The peer when one byte has been sent to it or read from it: the clocked bits, and the byte's kind (R246). -/
def afterByte (p : RefPeer) (dir : Dir) (x : Byte) (samples : List Bool) : RefPeer :=
  { p with
    lineDir := dir
    lineLevel := x.getLsbD 7
    bits := p.bits ++ bitsLsb x
    kinds := p.kinds ++ [decide (dir = .inp)]
    samples := samples }

theorem observeAll_txEvents (d : PeerDraws) (p : RefPeer) (x : Byte) (h : p.bits.length % 8 = 0) :
    p.observeAll d (txEvents x) = afterByte p .out x p.samples := by
  simp [txEvents, bitsLsb, RefPeer.observeAll, RefPeer.observe, afterByte, Nat.add_mod, h]

theorem observeAll_rxEvents (d : PeerDraws) (p : RefPeer) (x : Byte) (h : p.bits.length % 8 = 0) :
    p.observeAll d (rxEvents (bitsLsb x)) = afterByte p .inp x (p.samples ++ bitsLsb x) := by
  simp [rxEvents, bitsLsb, RefPeer.observeAll, RefPeer.observe, afterByte, Nat.add_mod, h]

/-- The peer when its window is about to close on a command byte and one more byte (R246). -/
def afterTwoBytes (d : PeerDraws) (p : RefPeer) (a : Byte) (dir : Dir) (x : Byte) (samples : List Bool) : RefPeer :=
  afterByte (afterByte (p.observe d (.ce true)) .out a []) dir x samples

theorem observeAll_writeEvents (d : PeerDraws) (p : RefPeer) (a x : Byte) :
    p.observeAll d (writeEvents a x) = (afterTwoBytes d p a .out x []).close d := by
  have h1 := observeAll_txEvents d (p.observe d (.ce true)) a rfl
  have h2 := observeAll_txEvents d (afterByte (p.observe d (.ce true)) .out a []) x
    (by simp [afterByte, RefPeer.observe, bitsLsb])
  rw [writeEvents, RefPeer.observeAll, observeAll_append, h1, observeAll_append]
  exact congrArg (RefPeer.observeAll d · [.ce false]) h2

theorem observeAll_opened_read (d : PeerDraws) (p : RefPeer) (a x : Byte) :
    p.observeAll d (.ce true :: (txEvents a ++ rxEvents (bitsLsb x))) = afterTwoBytes d p a .inp x (bitsLsb x) := by
  have h1 := observeAll_txEvents d (p.observe d (.ce true)) a rfl
  have h2 := observeAll_rxEvents d (afterByte (p.observe d (.ce true)) .out a []) x
    (by simp [afterByte, RefPeer.observe, bitsLsb])
  rw [RefPeer.observeAll, observeAll_append, h1]
  exact h2

section
variable (d : PeerDraws) (p : RefPeer) (a : Byte) (dir : Dir) (x : Byte) (samples : List Bool)

theorem afterTwoBytes_reg (c : PeerClass) (i : BitVec 5) :
    (afterTwoBytes d p a dir x samples).reg c i = (p.ticked d).reg c i := by
  cases c <;> rfl

theorem afterTwoBytes_armed : (afterTwoBytes d p a dir x samples).armed = (p.ticked d).armed := rfl

/-- The tick changes registers alone (R253). -/
theorem ticked_desync : (p.ticked d).desync = p.desync := by
  unfold RefPeer.ticked
  split <;> rfl

theorem ticked_windows : (p.ticked d).windows = p.windows := by
  unfold RefPeer.ticked
  split <;> rfl

theorem afterTwoBytes_desync : (afterTwoBytes d p a dir x samples).desync = p.desync := ticked_desync d p

theorem afterTwoBytes_windows : (afterTwoBytes d p a dir x samples).windows = p.windows + 1 :=
  congrArg (· + 1) (ticked_windows d p)

theorem afterTwoBytes_command : (afterTwoBytes d p a dir x samples).command = a := byteOfBits_bitsLsb a

/-- A command byte of WSET or RSET is inside the enumeration (R81). -/
theorem afterTwoBytes_inside {a : Byte} {dir : Dir} {x : Byte} {samples : List Bool} (ha : a ∈ wset ++ rset) :
    (afterTwoBytes d p a dir x samples).isOutside = false := by
  simp only [RefPeer.isOutside, afterTwoBytes_command, ha, decide_true, Bool.true_or, Bool.not_true]

theorem afterTwoBytes_isRead {a : Byte} (ha : a ∈ rset) : (afterTwoBytes d p a .inp x samples).isRead = true := by
  rw [RefPeer.isRead, afterTwoBytes_command, getLsbD_zero_of_mem_rset a ha]
  rfl

theorem afterTwoBytes_isWrite {a : Byte} (ha : a ∈ wset) : (afterTwoBytes d p a .out x samples).isWrite = true := by
  rw [RefPeer.isWrite, afterTwoBytes_command, getLsbD_zero_of_mem_wset a ha]
  rfl

theorem afterTwoBytes_dataByte : (afterTwoBytes d p a dir x samples).dataByte = x := byteOfBits_bitsLsb x

end

/-- The gate of a write, as R247 words it. -/
theorem ignores_iff (d : PeerDraws) (p : RefPeer) (c : PeerClass) (i : BitVec 5) :
    p.ignores d c i = true ↔ p.armed = true ∧
      ((c = .clock ∧ i.toNat < 7) ∨ (¬(c = .clock ∧ i.toNat ≤ 7) ∧ d.gatesOther p.windows c i = true)) := by
  unfold RefPeer.ignores
  rw [Bool.and_eq_true]
  refine and_congr_right fun _ => ?_
  split_ifs with h1 h2
  · simp [h1]
  · simp [h2]
  · have hhigh : ¬(c = .clock ∧ i.toNat ≤ 7) := by
      rintro ⟨hc, hi⟩
      have : i.toNat < 7 ∨ i.toNat = 7 := by omega
      exact this.elim (fun h => h1 ⟨hc, h⟩) fun h => h2 ⟨hc, h⟩
    simp [h1, hhigh]

/-- A valid `T T` window writes the addressed register unless the gate ignores it (R247, R248). -/
theorem close_write (d : PeerDraws) (p : RefPeer) {a : Byte} (x : Byte) (hd : p.desync = false) (ha : a ∈ wset) :
    (afterTwoBytes d p a .out x []).close d =
      if (afterTwoBytes d p a .out x []).ignores d (classOf a) (indexOf a) then afterTwoBytes d p a .out x []
      else (afterTwoBytes d p a .out x []).setReg (classOf a) (indexOf a) x := by
  have hdesync := (afterTwoBytes_desync d p a .out x []).trans hd
  have hcommand := afterTwoBytes_command d p a .out x []
  have hdata := afterTwoBytes_dataByte d p a .out x []
  have hinside := afterTwoBytes_inside d p (dir := .out) (x := x) (samples := []) (List.mem_append_left rset ha)
  have hwrite := afterTwoBytes_isWrite d p x [] ha
  simp only [RefPeer.close, hdesync, hinside, hwrite, hcommand, hdata, Bool.and_false, Bool.false_eq_true, if_false,
    if_true]

/-- Settles O51: the peer has the command byte and the data byte when the window closes, and writes by the gate. -/
theorem referencePeerTakesAWrite : Obligations.ReferencePeerTakesAWrite := by
  intro d p a x hd ha c i
  have hgate := ignores_iff d (afterTwoBytes d p a .out x []) c i
  rw [afterTwoBytes_armed, afterTwoBytes_windows] at hgate
  simp only [← hgate]
  rw [← writeEvents, observeAll_writeEvents, close_write d p x hd ha]
  by_cases haddr : c = classOf a ∧ i = indexOf a
  · obtain ⟨rfl, rfl⟩ := haddr
    split_ifs with hignored hwritten hwritten
    · exact absurd hignored hwritten.2.2
    · exact afterTwoBytes_reg ..
    · rw [reg_setReg, if_pos ⟨rfl, rfl⟩]
    · exact absurd ⟨rfl, rfl, hignored⟩ hwritten
  · rw [if_neg (c := c = classOf a ∧ _) fun hwritten => haddr ⟨hwritten.1, hwritten.2.1⟩]
    split
    · exact afterTwoBytes_reg ..
    · rw [reg_setReg, if_neg haddr, afterTwoBytes_reg]

/-- A valid `T R` window leaves the peer as it is (R251). -/
theorem close_read (d : PeerDraws) (p : RefPeer) {a : Byte} (x : Byte) (samples : List Bool) (hd : p.desync = false)
    (ha : a ∈ rset) : (afterTwoBytes d p a .inp x samples).close d = afterTwoBytes d p a .inp x samples := by
  have hdesync := (afterTwoBytes_desync d p a .inp x samples).trans hd
  have hinside := afterTwoBytes_inside d p (dir := .inp) (x := x) (samples := samples) (List.mem_append_right wset ha)
  have hread := afterTwoBytes_isRead d p x samples ha
  have hwrite : (afterTwoBytes d p a .inp x samples).isWrite = false := by
    rw [RefPeer.isWrite, afterTwoBytes_command, getLsbD_zero_of_mem_rset a ha]
    exact Bool.and_false _
  simp only [RefPeer.close, hdesync, hinside, hread, hwrite, Bool.and_false, Bool.false_eq_true, if_false, if_true]

/-- And the peer answers the addressed register in it, bit 0 first (R251). -/
theorem answers_read (d : PeerDraws) (p : RefPeer) {a : Byte} (x : Byte) (samples : List Bool) (hd : p.desync = false)
    (ha : a ∈ rset) : (afterTwoBytes d p a .inp x samples).answers =
      some (bitsLsb ((p.ticked d).reg (classOf a) (indexOf a))) := by
  have hdesync := (afterTwoBytes_desync d p a .inp x samples).trans hd
  have hinside := afterTwoBytes_inside d p (dir := .inp) (x := x) (samples := samples) (List.mem_append_right wset ha)
  have hread := afterTwoBytes_isRead d p x samples ha
  rw [RefPeer.answers, if_pos ⟨hdesync, hread, hinside⟩, afterTwoBytes_command, afterTwoBytes_reg]

/-- A byte is its bits (R56). -/
theorem bitsLsb_injective {x y : Byte} (h : bitsLsb x = bitsLsb y) : x = y := by
  rw [← byteOfBits_bitsLsb x, h, byteOfBits_bitsLsb]

/-- A peer that is not desynchronized and agrees with a framed read has read out its register, and stays synchronized
(R251, R252). -/
theorem reg_of_agrees {d : PeerDraws} {p : RefPeer} {a x : Byte} (hd : p.desync = false) (ha : a ∈ rset)
    (h : p.agrees d (readEvents a (bitsLsb x)) = true) :
    x = (p.ticked d).reg (classOf a) (indexOf a) ∧ (p.observeAll d (readEvents a (bitsLsb x))).desync = false := by
  have hsplit : readEvents a (bitsLsb x) = (.ce true :: (txEvents a ++ rxEvents (bitsLsb x))) ++ [.ce false] := by
    simp [readEvents]
  rw [hsplit] at h ⊢
  rw [agrees_append, Bool.and_eq_true, observeAll_opened_read] at h
  rw [observeAll_append, observeAll_opened_read]
  obtain ⟨-, hlast⟩ := h
  simp only [RefPeer.agrees, answers_read d p x _ hd ha, Option.all_some, Bool.and_true, beq_iff_eq] at hlast
  refine ⟨(bitsLsb_injective hlast).symm, ?_⟩
  rw [RefPeer.observeAll, RefPeer.observeAll, RefPeer.observe, close_read d p x _ hd ha, afterTwoBytes_desync, hd]

/-- Settles O50: the samples are the answered bits, which the peer's register is then equal to. -/
theorem referencePeerAnswersARead : Obligations.ReferencePeerAnswersARead := by
  intro d p a s t hf hc ha hq h hd hagrees
  have hexec : exec (.rdreg a) s = .next _ := (exec_eq _ s).trans (congrArg _ (execute_rdregBody hf hc ha hq))
  cases hexec.symm.trans h
  have htrace : (s.trace ++ readEvents a s.answeredBits).drop s.trace.length = readEvents a (bitsLsb s.answeredByte) := by
    rw [List.drop_left, bitsLsb_answeredByte]
  simp only [State.answeredValue, htrace] at hagrees ⊢
  obtain ⟨hreg, hsync⟩ := reg_of_agrees hd ha hagrees
  exact ⟨hreg, by rw [← hreg]; rfl, hsync⟩

end Sys2Proof.Proofs
end

section
/-! Family other, the host's façade (spec/46_host_sequences.md): the decimal strings (spec/42_bcd.md R156), the per-field
writes and reads, getDate and setDate. -/

namespace Sys2Proof.Proofs

open Sys2Proof Sys2Proof.Machine Sys2Proof.Laws

/-! ### Decimal strings -/

theorem toNat_digitChar {k : Nat} (hk : k < 10) : (digitChar k).toNat = 48 + k := by
  interval_cases k <;> rfl

/-- One digit more of a decimal value (R156). -/
def decStep (acc : Nat) (c : Char) : Nat := 10 * acc + (c.toNat - 48)

/-- The digits of `n` before `acc` stand for `n` followed by `acc`. -/
theorem foldl_decDigits (fuel n : Nat) (acc : List Char) (h : n < fuel) :
    (decDigits fuel n acc).foldl decStep 0 = acc.foldl decStep n := by
  induction fuel generalizing n acc with
  | zero => exact absurd h (Nat.not_lt_zero n)
  | succ fuel ih =>
    have hdigit : (digitChar (n % 10)).toNat = 48 + n % 10 := toNat_digitChar (Nat.mod_lt n (by decide))
    have hstep : decStep (n / 10) (digitChar (n % 10)) = n := by rw [decStep, hdigit]; omega
    rw [decDigits]
    split
    · rename_i hlast
      rw [hlast] at hstep
      rw [List.foldl_cons, hstep]
    · rw [ih _ _ (by omega), List.foldl_cons, hstep]

theorem decDigits_are_digits (fuel n : Nat) (acc : List Char) (h : ∀ c ∈ acc, 48 ≤ c.toNat ∧ c.toNat ≤ 57) :
    ∀ c ∈ decDigits fuel n acc, 48 ≤ c.toNat ∧ c.toNat ≤ 57 := by
  induction fuel generalizing n acc with
  | zero => exact h
  | succ fuel ih =>
    have hdigit : (digitChar (n % 10)).toNat = 48 + n % 10 := toNat_digitChar (Nat.mod_lt n (by decide))
    have hcons : ∀ c ∈ digitChar (n % 10) :: acc, 48 ≤ c.toNat ∧ c.toNat ≤ 57 :=
      List.forall_mem_cons.2 ⟨by rw [hdigit]; omega, h⟩
    rw [decDigits]
    split
    · exact hcons
    · exact ih _ _ hcons

/-- The first digit of a number other than 0 is not 0. -/
theorem head_decDigits (fuel n : Nat) (acc : List Char) (h : n < fuel) (hn : n ≠ 0) :
    (decDigits fuel n acc).head? ≠ some '0' := by
  induction fuel generalizing n acc with
  | zero => exact absurd h (Nat.not_lt_zero n)
  | succ fuel ih =>
    rw [decDigits]
    split
    · intro hzero
      have hchar : digitChar (n % 10) = '0' := Option.some.inj hzero
      have hdigit : (digitChar (n % 10)).toNat = 48 + n % 10 := toNat_digitChar (Nat.mod_lt n (by decide))
      rw [hchar] at hdigit
      have hval : ('0' : Char).toNat = 48 := rfl
      omega
    · exact ih _ _ (by omega) (by omega)

/-- Settles O58: the value, the digits and the first digit, each by induction on the fuel. -/
theorem decimalStringIsUnpadded : Obligations.DecimalStringIsUnpadded := by
  refine ⟨fun n => ⟨foldl_decDigits (n + 1) n [] (Nat.lt_succ_self n), ?_⟩, fun n hn => ?_, rfl⟩
  · exact decDigits_are_digits _ n [] (by simp)
  · exact head_decDigits _ n [] (Nat.lt_succ_self n) hn

/-! ### One command of an operation -/

/-- A host operation's parts, put together differently (R180). -/
theorem hostRun_bind_assoc {α β γ : Type} (r : HostRun α) (f : α → State → HostRun β) (g : β → State → HostRun γ) :
    (r.bind f).bind g = r.bind fun a s => (f a s).bind g := by
  cases r <;> rfl

/-- A command that its own check passes is not refused while FATAL is 0 (R229). -/
theorem refusedWith_eq_none {i : Instr} {s : State} (hf : s.flags.fatal = false) (hc : checkError i s = none) :
    refusedWith i s = none := by
  rw [refusedWith, if_neg (by simp [hf]), hc]

/-- WRREG as a part of an operation: RXBUF and RESULT are kept (R130). -/
theorem issue_wrreg_performs {a : Byte} (d : Byte) {s : State} (hf : s.flags.fatal = false)
    (hc : s.pins.ceAsserted = false) (ha : a ∈ wset) :
    Performs (issue (.wrreg a d) s) s (writeEvents a d) 1 fun _ t => t.rxbuf = s.rxbuf ∧ t.result = s.result := by
  have hr : refusedWith (.wrreg a d) s = none :=
    refusedWith_eq_none hf ((checkError_wrreg hc a d).trans (if_pos ha))
  have hclosed : ((writeEvents a d).foldl Event.onPins s.pins).ceAsserted = false := by rw [foldl_writeEvents]
  refine (issue_performs (decodeWord_hcwOf rfl) hr nofun hclosed).weaken fun v t _ ⟨hq, u, hb, ht⟩ => ?_
  obtain ⟨_, u', hb', hm, -⟩ := (wrregBody_plays a d s hc ha).quiet hq
  cases hb.symm.trans hb'
  rw [ht]
  exact ⟨hm.rxbuf, hm.result⟩

/-- RDREG as a part of an operation: its value is the decoded answers (R136). -/
theorem issue_rdreg_performs {a : Byte} {s : State} (hf : s.flags.fatal = false)
    (hc : s.pins.ceAsserted = false) (ha : a ∈ rset) :
    Performs (issue (.rdreg a) s) s (readEvents a s.answeredBits) 1 fun v t =>
      v = zext32 (bcdValue s.answeredByte) ∧ t.rxbuf = s.answeredByte ∧ t.smpCount = s.smpCount + 8 := by
  have hr : refusedWith (.rdreg a) s = none := refusedWith_eq_none hf ((checkError_rdreg hc a).trans (if_pos ha))
  have hclosed : ((readEvents a s.answeredBits).foldl Event.onPins s.pins).ceAsserted = false := by
    rw [foldl_readEvents]
  refine (issue_performs (decodeWord_hcwOf rfl) hr nofun hclosed).weaken fun v t _ ⟨hq, u, hb, ht⟩ => ?_
  obtain ⟨_, u', hb', -, rfl, -, hsamples⟩ := (rdregEvents_plays a s).quiet hq
  rw [bodyOf, rdregBody_eq a s hc ha, hb', bind_done] at hb
  cases hb
  rw [ht]
  exact ⟨rfl, rfl, hsamples⟩

/-- A 16-bit operand of the façade is the integer it stands for (R12, R75). -/
theorem toInt_ofInt_sixteen {v : Int} (hlow : -32768 ≤ v) (hhigh : v ≤ 32767) : (BitVec.ofInt 16 v).toInt = v := by
  rw [BitVec.toInt_ofInt]
  exact Int.bmod_eq_of_le (by omega) (by omega)

/-- BCDENC of 0..99 as a part of an operation: no event, and the packed byte in RESULT (R150). -/
theorem issue_bcdenc_performs {v : Int} {s : State} (hf : s.flags.fatal = false) (hc : s.pins.ceAsserted = false)
    (h0 : 0 ≤ v) (h99 : v ≤ 99) :
    Performs (issue (.bcdenc (BitVec.ofInt 16 v)) s) s [] 1 fun b t =>
      b = zext32 (bcdPack v) ∧ t.rxbuf = s.rxbuf ∧ t.result = zext32 (bcdPack v) := by
  have hv := toInt_ofInt_sixteen (v := v) (by omega) (by omega)
  have hr : refusedWith (.bcdenc (BitVec.ofInt 16 v)) s = none :=
    refusedWith_eq_none hf (if_pos (by rw [hv]; exact ⟨h0, h99⟩))
  refine (issue_performs (decodeWord_hcwOf rfl) hr nofun hc).weaken fun b t _ ⟨_, u, hb, ht⟩ => ?_
  rw [bodyOf, bcdencBody, sint16, hv, if_pos ((bcdInRange_iff v).2 ⟨h0, h99⟩)] at hb
  cases hb
  rw [ht]
  exact ⟨rfl, rfl, rfl⟩

/-! ### Writes -/

/-- A per-field write of 0..99 is three framed writes (R183). -/
theorem writeCoded_performs {a : Byte} {v : Int} {s : State} (hf : s.flags.fatal = false)
    (hc : s.pins.ceAsserted = false) (ha : a ∈ wset) (h0 : 0 ≤ v) (h99 : v ≤ 99) :
    Performs (writeCoded a v s) s
      (writeEvents 0x8E#8 0x00#8 ++ (writeEvents a (bcdPack v) ++ writeEvents 0x8E#8 0x80#8)) 4
      fun _ t => t.rxbuf = s.rxbuf ∧ t.result = zext32 (bcdPack v) := by
  have hwp : wpByte ∈ wset := by decide
  have hfatal {t : State} {e : List Event} {n : Nat} (ht : Issued s t e n) : t.flags.fatal = false :=
    (congrArg Flags.fatal ht.flags).trans hf
  rw [writeCoded, if_pos (by omega)]
  refine (issue_bcdenc_performs hf hc h0 h99).bind (n := 3) fun b s1 i1 ⟨hb, hrx1, hres1⟩ => ?_
  rw [hb, setWidth_zext32]
  refine (issue_wrreg_performs wpClear (hfatal i1) i1.closed hwp).bind (n := 2) fun _ s2 i2 ⟨hrx2, hres2⟩ => ?_
  have j2 := i1.trans i2
  refine (issue_wrreg_performs (bcdPack v) (hfatal j2) j2.closed ha).bind (n := 1) fun _ s3 i3 ⟨hrx3, hres3⟩ => ?_
  have j3 := j2.trans i3
  have hlast := (issue_wrreg_performs wpArm (hfatal j3) j3.closed hwp).bind (n := 0)
    (Q := fun _ t => t.rxbuf = s.rxbuf ∧ t.result = zext32 (bcdPack v)) (f := fun _ s4 => .ok () s4)
    fun _ s4 i4 ⟨hrx4, hres4⟩ => Performs.ok i4.closed
      ⟨hrx4.trans (hrx3.trans (hrx2.trans hrx1)), hres4.trans (hres3.trans (hres2.trans hres1))⟩
  rwa [List.append_nil] at hlast

theorem writeField_of_ne_year {f : Field} (hf : f ≠ .year) (v : Int) (s : State) :
    writeField f v s = writeCoded f.writeByte v s := by
  cases f with
  | year => exact absurd rfl hf
  | _ => rfl

theorem writeByte_mem_wset (f : Field) : f.writeByte ∈ wset := by cases f <;> decide

theorem writeYear_of_range {y : Int} {s : State} (h : 1000 ≤ y) (h' : y ≤ 9999) :
    writeYear y s = writeCoded 0x8C#8 (y % 100) s :=
  if_neg (by omega)

theorem writeYear_of_not_range {y : Int} {s : State} (h : y < 1000 ∨ 9999 < y) : writeYear y s = .failed 2#4 s :=
  if_pos (by omega)

/-- Settles O54: by the two branches of `writeYear`. -/
theorem writeYearTakesTheLowTwoDigits : Obligations.WriteYearTakesTheLowTwoDigits :=
  fun _ _ => ⟨writeYear_of_not_range, writeYear_of_range⟩

/-- Settles O52: the field's write is the coded write to its write byte, three framed writes after one BCDENC. -/
theorem fieldWriteMakesThreeTransactions : Obligations.FieldWriteMakesThreeTransactions := by
  intro f a v w s hfield hf hc hq
  have hcoded : writeField f v s = writeCoded f.writeByte w s ∧ a = f.writeByte ∧ 0 ≤ w ∧ w ≤ 99 := by
    obtain ⟨hmem, h0, h99, rfl⟩ | ⟨rfl, rfl, hlow, hhigh, rfl⟩ := hfield
    · have hrows : ∀ x ∈ [(Field.seconds, 0x80#8), (.minutes, 0x82#8), (.hours, 0x84#8), (.day, 0x86#8),
          (.month, 0x88#8), (.weekday, 0x8A#8)], x.1 ≠ .year ∧ x.2 = x.1.writeByte := by decide
      obtain ⟨hyear, hbyte⟩ := hrows _ hmem
      exact ⟨writeField_of_ne_year hyear w s, hbyte, h0, h99⟩
    · exact ⟨writeYear_of_range hlow hhigh, rfl, by omega, by omega⟩
  obtain ⟨hwrite, rfl, h0, h99⟩ := hcoded
  obtain ⟨_, t, hok, hissued, hrxbuf, hresult⟩ :=
    (writeCoded_performs hf hc (writeByte_mem_wset f) h0 h99).quiet (by simpa [writeEvents_length] using hq)
  exact ⟨bcdPack w, t, toNat_bcdPack h0 h99, hwrite.trans hok, hissued.trace, hissued.hostPc, hissued.flags,
    hissued.pending, hrxbuf, by rw [hresult, toNat_zext32]⟩

/-- Settles O53: BCDENC refuses the value, and the operation ends there. -/
theorem outOfRangeFieldWriteEmitsNothing : Obligations.OutOfRangeFieldWriteEmitsNothing := by
  intro f v s hfield hlow hhigh hv hf
  have hb : bodyOf (.bcdenc (BitVec.ofInt 16 v)) s = .raised .invalidArgument s :=
    body_refused _ s _ (if_neg (by rw [toInt_ofInt_sixteen hlow hhigh]; omega))
  have hissue := issue_raised (decodeWord_hcwOf rfl) (by simp [hf]) hb
  rw [writeField_of_ne_year hfield, writeCoded, if_pos ⟨hlow, hhigh⟩, hissue]
  exact ⟨_, rfl, rfl, rfl, rfl⟩

/-! ### Reads -/

/-- What the host makes of a register it has read (R187, R188). -/
def fieldText (f : Field) (raw : Byte) : List Char :=
  (if f = .year then ['2', '0'] else []) ++ dec (raw.toNat / 16 * 10 + raw.toNat % 16)

theorem readByte_mem_rset (f : Field) : f.readByte ∈ rset := by cases f <;> decide

/-- A per-field read is one RDREG (R187). -/
theorem readField_performs (f : Field) {s : State} (hf : s.flags.fatal = false) (hc : s.pins.ceAsserted = false) :
    Performs (readField f s) s (readEvents f.readByte s.answeredBits) 1 fun cs t =>
      cs = fieldText f s.answeredByte ∧ t.rxbuf = s.answeredByte ∧ t.smpCount = s.smpCount + 8 := by
  have htext : (if f = .year then Config.century ++ dec (zext32 (bcdValue s.answeredByte)).toNat
      else dec (zext32 (bcdValue s.answeredByte)).toNat) = fieldText f s.answeredByte := by
    rw [toNat_zext32, toNat_bcdValue, fieldText]
    split <;> rfl
  have h := (issue_rdreg_performs hf hc (readByte_mem_rset f)).bind (e2 := []) (n := 0)
    (Q := fun cs t => cs = fieldText f s.answeredByte ∧ t.rxbuf = s.answeredByte ∧ t.smpCount = s.smpCount + 8)
    fun v t ht ⟨hv, hrxbuf, hsamples⟩ => Performs.ok ht.closed ⟨hv ▸ htext, hrxbuf, hsamples⟩
  rwa [List.append_nil] at h

/-- Settles O55: the read is one RDREG, whose value the host formats. -/
theorem fieldReadFormatsTheRegister : Obligations.FieldReadFormatsTheRegister := by
  intro f a s hfield hf hc hq
  have hrows : ∀ x ∈ [(Field.seconds, 0x81#8), (.minutes, 0x83#8), (.hours, 0x85#8), (.day, 0x87#8), (.month, 0x89#8),
      (.weekday, 0x8B#8), (.year, 0x8D#8)], x.2 = x.1.readByte := by decide
  obtain rfl : a = f.readByte := hrows _ hfield
  rw [← readEvents_length f.readByte s] at hq
  obtain ⟨_, t, hread, hissued, rfl, hrxbuf, -⟩ := (readField_performs f hf hc).quiet hq
  exact ⟨t, hread, hissued.trace, hissued.hostPc, hrxbuf⟩

/-- A read in a run of reads: the field whose answers begin after `n` samples of the run (R189). -/
theorem readField_performs_at (f : Field) {s t : State} {e : List Event} {m : Nat} (n : Nat)
    (hf : s.flags.fatal = false) (ht : Issued s t e m) (hn : t.smpCount = s.smpCount + n) :
    Performs (readField f t) t (readEvents f.readByte (s.answeredBitsAt n)) 1 fun cs u =>
      cs = fieldText f (s.answeredByteAt n) ∧ u.smpCount = s.smpCount + (n + 8) := by
  have hbits : t.answeredBits = s.answeredBitsAt n := by
    simp only [State.answeredBits, State.answeredBitsAt, ht.draws, hn]
  have hbyte : t.answeredByte = s.answeredByteAt n := congrArg byteOfBits hbits
  have h := readField_performs f ((congrArg Flags.fatal ht.flags).trans hf) ht.closed
  rw [hbits, hbyte] at h
  exact h.weaken fun cs u _ ⟨hcs, _, hsamples⟩ => ⟨hcs, by rw [hsamples, hn, Nat.add_assoc]⟩

/-- The text of getDate from the texts of its fields (R189). -/
def dateText (d m y h mi sec w : List Char) : List Char :=
  "Date: ".toList ++ d ++ ['.'] ++ m ++ ['.'] ++ y ++ [',', ' '] ++ h ++ [':'] ++ mi ++ [':'] ++ sec ++
    ", Day: ".toList ++ w

/-- The same text, with the century before the year (R188, R189). The two long strings are generalized: unfolding them is
costly, and the equation does not depend on them. -/
theorem dateText_eq (d m y h mi sec w : List Char) :
    dateText d m (['2', '0'] ++ y) h mi sec w =
      "Date: ".toList ++ d ++ ".".toList ++ m ++ ".20".toList ++ y ++ ", ".toList ++ h ++ ":".toList ++ mi ++
        ":".toList ++ sec ++ ", Day: ".toList ++ w := by
  have hdot : ".".toList = ['.'] := rfl
  have hcentury : ".20".toList = ['.'] ++ ['2', '0'] := rfl
  have hcomma : ", ".toList = [',', ' '] := rfl
  have hcolon : ":".toList = [':'] := rfl
  unfold dateText
  generalize "Date: ".toList = date
  generalize ", Day: ".toList = day
  rw [hdot, hcentury, hcomma, hcolon]
  simp only [List.append_assoc]

/-- Seven reads in order (R189). -/
theorem getDate_performs {s : State} (hf : s.flags.fatal = false) (hc : s.pins.ceAsserted = false) :
    Performs (getDate s) s
      (readEvents (Field.readByte .day) (s.answeredBitsAt 0) ++
        (readEvents (Field.readByte .month) (s.answeredBitsAt 8) ++
          (readEvents (Field.readByte .year) (s.answeredBitsAt 16) ++
            (readEvents (Field.readByte .hours) (s.answeredBitsAt 24) ++
              (readEvents (Field.readByte .minutes) (s.answeredBitsAt 32) ++
                (readEvents (Field.readByte .seconds) (s.answeredBitsAt 40) ++
                  (readEvents (Field.readByte .weekday) (s.answeredBitsAt 48) ++ []))))))) 7 fun cs t =>
      cs = dateText (fieldText .day (s.answeredByteAt 0)) (fieldText .month (s.answeredByteAt 8))
        (fieldText .year (s.answeredByteAt 16)) (fieldText .hours (s.answeredByteAt 24))
        (fieldText .minutes (s.answeredByteAt 32)) (fieldText .seconds (s.answeredByteAt 40))
        (fieldText .weekday (s.answeredByteAt 48)) ∧ t.smpCount = s.smpCount + 56 := by
  unfold getDate
  refine (readField_performs_at .day 0 hf (Issued.refl hc) rfl).bind (n := 6) fun d s1 i1 ⟨hd, h1⟩ => ?_
  refine (readField_performs_at .month 8 hf i1 h1).bind (n := 5) fun m s2 i2 ⟨hm, h2⟩ => ?_
  have i2 := i1.trans i2
  refine (readField_performs_at .year 16 hf i2 h2).bind (n := 4) fun y s3 i3 ⟨hy, h3⟩ => ?_
  have i3 := i2.trans i3
  refine (readField_performs_at .hours 24 hf i3 h3).bind (n := 3) fun h s4 i4 ⟨hh, h4⟩ => ?_
  have i4 := i3.trans i4
  refine (readField_performs_at .minutes 32 hf i4 h4).bind (n := 2) fun mi s5 i5 ⟨hmi, h5⟩ => ?_
  have i5 := i4.trans i5
  refine (readField_performs_at .seconds 40 hf i5 h5).bind (n := 1) fun sec s6 i6 ⟨hsec, h6⟩ => ?_
  have i6 := i5.trans i6
  refine (readField_performs_at .weekday 48 hf i6 h6).bind (n := 0) fun w s7 i7 ⟨hw, h7⟩ => ?_
  refine Performs.ok i7.closed ⟨?_, h7⟩
  subst hd hm hy hh hmi hsec hw
  unfold dateText
  with_reducible rfl

theorem readEvents_answeredBitsAt_length (a : Byte) (s : State) (n : Nat) :
    (readEvents a (s.answeredBitsAt n)).length = 52 := by
  simp [readEvents, txEvents_length, rxEvents, State.answeredBitsAt]

/-- Settles O56: seven reads, each beginning 8 samples after the one before. -/
theorem getDateReadsSevenFieldsInOrder : Obligations.GetDateReadsSevenFieldsInOrder := by
  intro s hf hc hq text
  obtain ⟨_, t, hok, hissued, rfl, hsamples⟩ :=
    (getDate_performs hf hc).quiet (by simpa [readEvents_answeredBitsAt_length] using hq)
  refine ⟨t, ?_, hissued.hostPc, hsamples, ?_, ?_⟩
  · rw [hok]
    exact congrArg (HostRun.ok · t) (dateText_eq (text 0) (text 8) (text 16) (text 24) (text 32) (text 40) (text 48))
  · rw [hissued.trace]
    simp [readEvents_answeredBitsAt_length]
  · rw [hissued.trace]
    rfl

/-! ### setDate -/

/-- The writes that a field's guard lets through: the byte and the coded value (R182, R191). -/
def guardedWrite (guard : Prop) [Decidable guard] (a : Byte) (v : Int) : List (Byte × Int) :=
  if guard then [(a, v)] else []

/-- The events of a list of per-field writes (R183). -/
def writesEvents (ws : List (Byte × Int)) : List Event := ws.flatMap fun w => fieldWriteEvents w.1 w.2

/-- An operation that makes these per-field writes, with four commands for each. -/
def Writes (r : HostRun Unit) (s : State) (ws : List (Byte × Int)) : Prop :=
  Performs r s (writesEvents ws) (4 * ws.length) fun _ _ => True

theorem fieldWriteEvents_length (a : Byte) (v : Int) : (fieldWriteEvents a v).length = 156 := by
  simp [fieldWriteEvents, writeEvents_length]

theorem writesEvents_length (ws : List (Byte × Int)) : (writesEvents ws).length = 156 * ws.length := by
  simp [writesEvents, List.length_flatMap, fieldWriteEvents_length, Nat.mul_comm]

theorem Writes.bind {r : HostRun Unit} {f : Unit → State → HostRun Unit} {s : State} {ws vs : List (Byte × Int)}
    (hf : s.flags.fatal = false) (h : Writes r s ws)
    (g : ∀ a t, t.flags.fatal = false → t.pins.ceAsserted = false → Writes (f a t) t vs) :
    Writes (r.bind f) s (ws ++ vs) := by
  unfold Writes writesEvents
  rw [List.flatMap_append, List.length_append, Nat.mul_add]
  exact Performs.bind h fun a t ht _ => g a t ((congrArg Flags.fatal ht.flags).trans hf) ht.closed

/-- The coded byte of a write, as the event list of a per-field write has it (R150). -/
theorem bcdPack_eq_ofNat {v : Int} (h0 : 0 ≤ v) (h99 : v ≤ 99) :
    bcdPack v = BitVec.ofNat 8 (v / 10 * 16 + v % 10).toNat := by
  rw [← toNat_bcdPack h0 h99, Int.toNat_natCast, BitVec.ofNat_toNat, BitVec.setWidth_eq]

/-- A guarded write of a value that the field's write accepts once the guard has. -/
theorem writeGuarded_writes {f : Field} {a : Byte} {v w : Int} {guard : Prop} [Decidable guard]
    (hguard : f.guard v = true ↔ guard)
    (hcoded : guard → 0 ≤ w ∧ w ≤ 99 ∧ a ∈ wset ∧ ∀ s, writeField f v s = writeCoded a w s) {s : State}
    (hf : s.flags.fatal = false) (hc : s.pins.ceAsserted = false) :
    Writes (writeGuarded f v s) s (guardedWrite guard a w) := by
  unfold writeGuarded guardedWrite
  by_cases h : guard
  · obtain ⟨h0, h99, ha, hwrite⟩ := hcoded h
    rw [if_pos (hguard.2 h), if_pos h, hwrite]
    have hperforms := writeCoded_performs hf hc ha h0 h99
    rw [bcdPack_eq_ofNat h0 h99] at hperforms
    exact hperforms.weaken fun _ _ _ _ => trivial
  · rw [if_neg (mt hguard.1 h), if_neg h]
    exact Performs.ok hc trivial

/-- The fields after the year, as setDate writes them (R191). -/
def writeTime (hour minute second weekday : Int) (s : State) : HostRun Unit :=
  (writeGuarded .hours hour s).bind fun _ s1 =>
    (writeGuarded .minutes minute s1).bind fun _ s2 =>
      (writeGuarded .seconds second s2).bind fun _ s3 => writeGuarded .weekday weekday s3

/-- The fields before the year (R191). -/
def writeDayMonth (day month : Int) (s : State) : HostRun Unit :=
  (writeGuarded .day day s).bind fun _ s1 => writeGuarded .month month s1

/-- setDate is the fields before the year, the year, and the fields after it (R191). -/
theorem setDate_eq (day month year hour minute second weekday : Int) (s : State) :
    setDate day month year hour minute second weekday s =
      (writeDayMonth day month s).bind fun _ s2 =>
        (writeGuarded .year year s2).bind fun _ s3 => writeTime hour minute second weekday s3 :=
  (hostRun_bind_assoc ..).symm

/-- A guarded write of a field other than the year whose guard lies within 0..99 (R182, R191). -/
theorem writeGuarded_field_writes {f : Field} {v : Int} {guard : Prop} [Decidable guard] (hfield : f ≠ .year)
    (hguard : f.guard v = true ↔ guard) (hrange : guard → 0 ≤ v ∧ v ≤ 99) {s : State}
    (hf : s.flags.fatal = false) (hc : s.pins.ceAsserted = false) :
    Writes (writeGuarded f v s) s (guardedWrite guard f.writeByte v) :=
  writeGuarded_writes hguard
    (fun h => ⟨(hrange h).1, (hrange h).2, writeByte_mem_wset f, writeField_of_ne_year hfield v⟩) hf hc

/-- The writes before the year. -/
def dayMonthWrites (day month : Int) : List (Byte × Int) :=
  guardedWrite (0 < day ∧ day < 32) 0x86#8 day ++ guardedWrite (0 < month ∧ month < 13) 0x88#8 month

/-- The writes after the year. -/
def timeWrites (hour minute second weekday : Int) : List (Byte × Int) :=
  guardedWrite (-1 < hour ∧ hour < 23) 0x84#8 hour ++ (guardedWrite (-1 < minute ∧ minute < 60) 0x82#8 minute ++
    (guardedWrite (-1 < second ∧ second < 60) 0x80#8 second ++ guardedWrite (0 < weekday ∧ weekday < 8) 0x8A#8 weekday))

theorem guardedWrite_length_le (guard : Prop) [Decidable guard] (a : Byte) (v : Int) :
    (guardedWrite guard a v).length ≤ 1 := by
  unfold guardedWrite
  split
  · exact Nat.le_refl 1
  · exact Nat.zero_le 1

theorem dayMonthWrites_length_le (day month : Int) : (dayMonthWrites day month).length ≤ 2 := by
  rw [dayMonthWrites, List.length_append]
  exact Nat.add_le_add (guardedWrite_length_le ..) (guardedWrite_length_le ..)

theorem timeWrites_length_le (hour minute second weekday : Int) :
    (timeWrites hour minute second weekday).length ≤ 4 := by
  rw [timeWrites, List.length_append, List.length_append, List.length_append]
  exact Nat.add_le_add (guardedWrite_length_le ..) (Nat.add_le_add (guardedWrite_length_le ..)
    (Nat.add_le_add (guardedWrite_length_le ..) (guardedWrite_length_le ..)))

theorem writeDayMonth_writes (day month : Int) {s : State} (hf : s.flags.fatal = false)
    (hc : s.pins.ceAsserted = false) : Writes (writeDayMonth day month s) s (dayMonthWrites day month) :=
  Writes.bind hf (writeGuarded_field_writes (f := .day) (by decide) decide_eq_true_iff (by omega) hf hc)
    fun _ _ => writeGuarded_field_writes (f := .month) (by decide) decide_eq_true_iff (by omega)

theorem writeTime_writes (hour minute second weekday : Int) {s : State} (hf : s.flags.fatal = false)
    (hc : s.pins.ceAsserted = false) :
    Writes (writeTime hour minute second weekday s) s (timeWrites hour minute second weekday) :=
  Writes.bind hf (writeGuarded_field_writes (f := .hours) (by decide) decide_eq_true_iff (by omega) hf hc)
    fun _ _ hf hc =>
  Writes.bind hf (writeGuarded_field_writes (f := .minutes) (by decide) decide_eq_true_iff (by omega) hf hc)
    fun _ _ hf hc =>
  Writes.bind hf (writeGuarded_field_writes (f := .seconds) (by decide) decide_eq_true_iff (by omega) hf hc)
    fun _ _ hf hc => writeGuarded_field_writes (f := .weekday) (by decide) decide_eq_true_iff (by omega) hf hc

/-- setDate with a year that is skipped or has 4 digits makes every write whose guard holds, in order (R191). -/
theorem setDate_writes (day month year hour minute second weekday : Int) {s : State}
    (hyear : 0 < year → 1000 ≤ year ∧ year ≤ 9999) (hf : s.flags.fatal = false) (hc : s.pins.ceAsserted = false) :
    Writes (setDate day month year hour minute second weekday s) s
      (dayMonthWrites day month ++ (guardedWrite (0 < year) 0x8C#8 (year % 100) ++
        timeWrites hour minute second weekday)) := by
  rw [setDate_eq]
  refine Writes.bind hf (writeDayMonth_writes day month hf hc) fun _ t hf hc => ?_
  refine Writes.bind hf (writeGuarded_writes (f := .year) decide_eq_true_iff (fun h => ?_) hf hc)
    fun _ _ => writeTime_writes hour minute second weekday
  obtain ⟨hlow, hhigh⟩ := hyear h
  exact ⟨by omega, by omega, by decide, fun _ => writeYear_of_range hlow hhigh⟩

/-- Settles O59: the guarded writes one after the other, at most seven of 156 events each. -/
theorem setDateWritesEachGuardedFieldInOrder : Obligations.SetDateWritesEachGuardedFieldInOrder := by
  intro day month year hour minute second weekday s hyear hf hc hq writes
  have hwrites : writes = dayMonthWrites day month ++ (guardedWrite (0 < year) 0x8C#8 (year % 100) ++
      timeWrites hour minute second weekday) := by
    simp only [writes, dayMonthWrites, timeWrites, guardedWrite, List.append_assoc]
  have hlength : (writesEvents writes).length ≤ 156 * (2 + (1 + 4)) := by
    rw [writesEvents_length, hwrites, List.length_append, List.length_append]
    exact Nat.mul_le_mul_left 156 (Nat.add_le_add (dayMonthWrites_length_le day month)
      (Nat.add_le_add (guardedWrite_length_le ..) (timeWrites_length_le hour minute second weekday)))
  have hperforms := setDate_writes day month year hour minute second weekday hyear hf hc
  rw [← hwrites] at hperforms
  obtain ⟨_, t, hok, hissued, -⟩ := hperforms.quiet fun k hk => hq k (Nat.lt_of_lt_of_le hk hlength)
  exact ⟨t, hok, hissued.trace, hissued.hostPc, hissued.flags⟩

/-- At a year above 0 that is not of 4 digits setDate issues nothing more (R186, R191, R193). -/
theorem setDate_of_bad_year {year : Int} (day month hour minute second weekday : Int) (s : State) (h0 : 0 < year)
    (hyear : year < 1000 ∨ 9999 < year) :
    setDate day month year hour minute second weekday s =
      (writeDayMonth day month s).bind fun _ t => .failed 2#4 t := by
  have hwrite (t : State) : writeGuarded .year year t = .failed 2#4 t :=
    (if_pos (decide_eq_true h0)).trans (writeYear_of_not_range hyear)
  simp only [setDate_eq, hwrite]
  rfl

/-- Settles O60: at a bad year only the writes before it are made; else the first failing operation stops the writes
where it is. -/
theorem setDateStopsAtTheFirstError : Obligations.SetDateStopsAtTheFirstError := by
  intro day month year hour minute second weekday s hf hc before writes events
  have hbefore := writeDayMonth_writes day month hf hc
  by_cases hbad : 0 < year ∧ (year < 1000 ∨ 9999 < year)
  · have hwrites : writes = dayMonthWrites day month := if_pos hbad
    have hset := setDate_of_bad_year day month hour minute second weekday s hbad.1 hbad.2
    rw [← hwrites] at hbefore
    refine ⟨fun _ hq => ?_, fun k hk hfails => ?_⟩
    · obtain ⟨_, t, hok, hissued, -⟩ := hbefore.quiet hq
      exact ⟨t, hset.trans (congrArg (HostRun.bind · _) hok), hissued.trace, hissued.hostPc, hissued.flags⟩
    · obtain ⟨t, hfailed, htrace, hfatal⟩ := hbefore.fault k hk hfails
      exact ⟨t, hset.trans (congrArg (HostRun.bind · _) hfailed), htrace, hfatal⟩
  · have hwrites : writes = dayMonthWrites day month ++ (guardedWrite (0 < year) 0x8C#8 (year % 100) ++
        timeWrites hour minute second weekday) := by
      refine (if_neg hbad).trans ?_
      simp only [before, dayMonthWrites, timeWrites, guardedWrite, List.append_assoc]
    have hperforms := setDate_writes day month year hour minute second weekday (by omega) hf hc
    rw [← hwrites] at hperforms
    exact ⟨fun h => absurd h hbad, hperforms.fault⟩

/-- Settles O57: by the branch of the guard, and integer arithmetic on the bounds. -/
theorem failingGuardIssuesNothing : Obligations.FailingGuardIssuesNothing := by
  refine ⟨fun f v s hguard => ?_, fun v => ?_⟩
  · rw [writeGuarded, hguard, if_neg Bool.false_ne_true]
  · simp only [Field.guard, decide_eq_true_eq]
    omega

end Sys2Proof.Proofs
end
